-- ==== Sys2Proof/Word.lean ====
section
/-! DEFINITION. The value types of the hardware (00_scope.md R9, R11): all values are unsigned. -/

namespace Sys2Proof

/-- A byte: every payload, the shift register, the request and response fields. -/
abbrev Byte := BitVec 8

/-- One decimal digit as the Decade Counter presents it: 4 bits, 0 to 15, no range check (D16). -/
abbrev Digit := BitVec 4

/-- A 16-bit word as it appears on the wire: two bytes, the first one sent in bits 15 to 8
(30_encoding.md R78, R79). -/
abbrev WireWord := BitVec 16

end Sys2Proof
end

