-- ==== Sys2Proof/Config.lean ====
section
/-! DEFINITION. What an instance of the hardware fixes (00_scope.md R7, R8), the input pins of the core
(40_composition.md R93), and the two values the spec leaves open: the parameter PRESCALER and the inputs of a tick that
nobody has scheduled. Both are opaque: nothing can be proved of their value. -/

namespace Sys2Proof

/-- Four digits, index 0 to 3 (R30, R93). -/
structure Digits where
  d0 : Digit
  d1 : Digit
  d2 : Digit
  d3 : Digit
deriving DecidableEq, Repr, Inhabited

/-- The input pins in one tick (40_composition.md R93, R98). `greqReady` is a port that no rule reads (R95). -/
structure Inputs where
  /-- `en`: the external enable; false resets the core (R157). -/
  en : Bool
  /-- `refresh`: the refresh timer's flag (R155). -/
  refresh : Bool
  /-- `digits[0..3]`: the Decade Counter's digits (R102). -/
  digits : Digits
  /-- `gresp_valid`: the glyph response stream's valid. -/
  grespValid : Bool
  /-- `gresp_bitmap`: the glyph response's bitmap. -/
  grespBitmap : Byte
  /-- `greq_ready`: the glyph request stream's ready. -/
  greqReady : Bool
deriving DecidableEq, Repr, Inhabited

namespace Config

/-- The clock division factor (00_scope.md R7): a parameter of the instance the spec leaves open (D20).
Free: nothing is known of it. DESIGN CHOICE, safe (log 3). -/
opaque PRESCALER : Nat

/-- The input pins in tick `t`, where the state schedules none (40_composition.md R109: the inputs are free in every
tick). Free: nothing is known of them. DESIGN CHOICE, safe (log 2). -/
opaque envInputs : Nat → Inputs

/-- `MODULES` (R8): the driver chips in the chain. -/
abbrev MODULES : Nat := 4

/-- `LAST` (R8): the module addressed first, and the reset value of `O.digitIndex`. -/
abbrev LAST : BitVec 2 := 3#2

/-- `ROWS` (R8). -/
abbrev ROWS : Nat := 8

/-- `CONFIG_ENTRIES` (R8). -/
abbrev CONFIG_ENTRIES : Nat := 6

end Config

/-- `K(p)` (R8): the ticks one byte shifts for `PRESCALER = p`. -/
def byteTicks (p : Nat) : Nat := 16 * (p + 1)

end Sys2Proof
end

