-- ==== Sys2Proof/Syntax.lean ====
section
/-! DEFINITION. The operations and wire words of spec/opcode_table.json, one constructor of `Instr` per row, and the
three kinds of code word they are encoded in (30_encoding.md R71, R72, R76, R78, R79). -/

namespace Sys2Proof

/-- The 16 state tags of the orchestrator (30_encoding.md R71), in the order of their codes. -/
inductive StateTag where
  | init | sendReg | w4RegActive | w4RegComplete
  | sendValue | w4ValueActive | w4ValueComplete | configNext
  | tick | sendUpdate | w4UpdateActive | w4UpdateComplete
  | getRow | waitForRow | sendRow | rowSent
deriving DecidableEq, Repr, Inhabited

/-- The five Booleans that select the serializer's operation (30_encoding.md R76). -/
structure SerCond where
  /-- `e`: `ser_en`. -/
  e : Bool
  /-- `z`: `S.count = 0`. -/
  z : Bool
  /-- `v`: `out_valid`. -/
  v : Bool
  /-- `p`: `S.prescaleCounter = 0`. -/
  p : Bool
  /-- `c`: `S.clkPhase`. -/
  c : Bool
deriving DecidableEq, Repr, Inhabited

/-- One constructor per row of spec/opcode_table.json.
The don't-care positions of a SERCOND row are operands, so that no bit of a condition vector is lost. -/
inductive Instr where
  -- STATE4: the configuration sequencer (41_orchestrator_config.md)
  | init
  | sendReg
  | w4RegActive
  | w4RegComplete
  | sendValue
  | w4ValueActive
  | w4ValueComplete
  | configNext
  -- STATE4: the render arbiter (42_orchestrator_render.md)
  | tick
  | sendUpdate
  | w4UpdateActive
  | w4UpdateComplete
  | getRow
  | waitForRow
  | sendRow
  | rowSent
  -- SERCOND: the bit serializer (43_serializer.md)
  | serDisabled (z v p c : Bool)
  | serIdle (p c : Bool)
  | serAccept (p c : Bool)
  | serWait (v c : Bool)
  | serRise (v : Bool)
  | serFall (v : Bool)
  -- CFG16 and ROW16: words on the wire (30_encoding.md R78, R79)
  | cfgWord0
  | cfgWord1
  | cfgWord2
  | cfgWord3
  | cfgWord4
  | cfgWord5
  | rowWord (sel : BitVec 4) (bitmap : Byte)
deriving DecidableEq, Repr

/-- A code word with the format it stands in. The three formats are three spaces: the register `O.state`, the condition
vector, and the serial wire. -/
inductive CodeWord where
  /-- Format STATE4 (R72). -/
  | state4 (w : BitVec 4)
  /-- Format SERCOND (R76), bits 4 to 0 are `e z v p c`. -/
  | serCond (w : BitVec 5)
  /-- Formats CFG16 and ROW16 (R78, R79), bit 15 is sent first. -/
  | wire16 (w : WireWord)
deriving DecidableEq, Repr

/-- Why a code word is no operation and no word of the table. -/
inductive DecodeError where
  /-- A wire word whose bits 15 to 12 are not 0: neither CFG16 nor ROW16. -/
  | noWireFormat (w : WireWord)
  /-- A single byte of 0x20 or above: neither a state tag nor a condition vector. -/
  | noByteFormat (b : Byte)
  /-- A number of bits or bytes no format has. -/
  | badLength (n : Nat)
deriving DecidableEq, Repr

end Sys2Proof
end

