-- ==== Sys2Proof/WellFormed.lean ====
section
/-! DEFINITION. The operand ranges the encoding alone does not enforce. -/

namespace Sys2Proof

/-- The row-select field of a frame word is `O.rowIndex + 1`, 1 to 8 (30_encoding.md R79, R87); every other operation is
well formed whatever its operands. -/
abbrev Instr.WellFormed : Instr → Prop
  | .rowWord sel _ => 1 ≤ sel.toNat ∧ sel.toNat ≤ 8
  | _ => True

/-- The same check as a Boolean. -/
def Instr.wellFormed : Instr → Bool
  | .rowWord sel _ => decide (1 ≤ sel.toNat) && decide (sel.toNat ≤ 8)
  | _ => true

end Sys2Proof
end

