-- ==== Sys2Proof/Decode.lean ====
section
/-! DEFINITION. Decoding (total, rejecting by name) and, after it, encoding, both written from 30_encoding.md R71, R76,
R78, R79 and spec/opcode_table.json. -/

namespace Sys2Proof

/-! ### State tags (R71) -/

/-- The 4-bit code of a state tag. -/
def StateTag.code : StateTag → BitVec 4
  | .init => 0#4
  | .sendReg => 1#4
  | .w4RegActive => 2#4
  | .w4RegComplete => 3#4
  | .sendValue => 4#4
  | .w4ValueActive => 5#4
  | .w4ValueComplete => 6#4
  | .configNext => 7#4
  | .tick => 8#4
  | .sendUpdate => 9#4
  | .w4UpdateActive => 10#4
  | .w4UpdateComplete => 11#4
  | .getRow => 12#4
  | .waitForRow => 13#4
  | .sendRow => 14#4
  | .rowSent => 15#4

/-- The tag of a 4-bit code; all 16 codes are legal (R86). -/
def StateTag.ofCode (w : BitVec 4) : StateTag :=
  match w.toNat with
  | 0 => .init
  | 1 => .sendReg
  | 2 => .w4RegActive
  | 3 => .w4RegComplete
  | 4 => .sendValue
  | 5 => .w4ValueActive
  | 6 => .w4ValueComplete
  | 7 => .configNext
  | 8 => .tick
  | 9 => .sendUpdate
  | 10 => .w4UpdateActive
  | 11 => .w4UpdateComplete
  | 12 => .getRow
  | 13 => .waitForRow
  | 14 => .sendRow
  | _ => .rowSent

/-- The operation a state tag selects (R71, R99). -/
def StateTag.op : StateTag → Instr
  | .init => .init
  | .sendReg => .sendReg
  | .w4RegActive => .w4RegActive
  | .w4RegComplete => .w4RegComplete
  | .sendValue => .sendValue
  | .w4ValueActive => .w4ValueActive
  | .w4ValueComplete => .w4ValueComplete
  | .configNext => .configNext
  | .tick => .tick
  | .sendUpdate => .sendUpdate
  | .w4UpdateActive => .w4UpdateActive
  | .w4UpdateComplete => .w4UpdateComplete
  | .getRow => .getRow
  | .waitForRow => .waitForRow
  | .sendRow => .sendRow
  | .rowSent => .rowSent

/-! ### Condition vectors (R76) -/

/-- The vector as 5 bits, `e` in bit 4. -/
def SerCond.bits (k : SerCond) : BitVec 5 :=
  BitVec.ofBool k.e ++ BitVec.ofBool k.z ++ BitVec.ofBool k.v ++ BitVec.ofBool k.p ++ BitVec.ofBool k.c

/-- The five Booleans of a 5-bit vector. -/
def SerCond.ofBits (w : BitVec 5) : SerCond :=
  ⟨w.getLsbD 4, w.getLsbD 3, w.getLsbD 2, w.getLsbD 1, w.getLsbD 0⟩

/-- The operation a condition vector selects (R76, R100): six disjoint patterns that cover all 32 vectors. -/
def SerCond.op (k : SerCond) : Instr :=
  match k.e with
  | false => .serDisabled k.z k.v k.p k.c
  | true =>
    match k.z with
    | true =>
      match k.v with
      | false => .serIdle k.p k.c
      | true => .serAccept k.p k.c
    | false =>
      match k.p with
      | false => .serWait k.v k.c
      | true =>
        match k.c with
        | false => .serRise k.v
        | true => .serFall k.v

/-! ### Decoding -/

/-- A word on the wire (R78, R79): the six configuration words are fixed in all 16 bits, a frame word in bits 15 to 12.
A frame word whose select field is outside 1 to 8 is decoded and is not well formed (log 9). -/
def decodeWire16 (w : WireWord) : Except DecodeError Instr :=
  if w = 0x0C00#16 then .ok .cfgWord0
  else if w = 0x0F00#16 then .ok .cfgWord1
  else if w = 0x0B07#16 then .ok .cfgWord2
  else if w = 0x0900#16 then .ok .cfgWord3
  else if w = 0x0C01#16 then .ok .cfgWord4
  else if w = 0x0A02#16 then .ok .cfgWord5
  else if w.extractLsb' 12 4 = 0#4 then .ok (.rowWord (w.extractLsb' 8 4) (w.extractLsb' 0 8))
  else .error (.noWireFormat w)

/-- The operation or word a code word stands for. -/
def decode : CodeWord → Except DecodeError Instr
  | .state4 w => .ok (StateTag.ofCode w).op
  | .serCond w => .ok (SerCond.ofBits w).op
  | .wire16 w => decodeWire16 w

/-- The code word a string of bytes holds: two bytes are a wire word, the first one sent in bits 15 to 8; one byte below
0x10 is a state tag, one from 0x10 to 0x1F a condition vector with `e = 1`. The vectors with `e = 0` share their byte with
a state tag; the tag is read (log 10). -/
def classify : List Byte → Except DecodeError CodeWord
  | [b] =>
    if b < 0x10#8 then .ok (.state4 (b.extractLsb' 0 4))
    else if b < 0x20#8 then .ok (.serCond (b.extractLsb' 0 5))
    else .error (.noByteFormat b)
  | [b1, b0] => .ok (.wire16 (b1 ++ b0))
  | l => .error (.badLength l.length)

/-- Decoding of any string of bytes. -/
def decodeBytes (l : List Byte) : Except DecodeError Instr :=
  match classify l with
  | .ok cw => decode cw
  | .error e => .error e

/-- The code word of `nbits` bits whose value is `w`, numbered as spec/opcode_table.json numbers them: 8 and 16 bits are
laid out as bytes in the order of the wire; 4 and 5 bits name the formats STATE4 and SERCOND themselves. -/
def tableWord (nbits w : Nat) : Option CodeWord :=
  if w < 2 ^ nbits then
    match nbits with
    | 4 => some (.state4 (BitVec.ofNat 4 w))
    | 5 => some (.serCond (BitVec.ofNat 5 w))
    | 8 => (classify [BitVec.ofNat 8 w]).toOption
    | 16 => (classify [BitVec.ofNat 8 (w / 256), BitVec.ofNat 8 w]).toOption
    | _ => none
  else none

/-- The instruction the decoder reads from `nbits` bits whose value is `w`. -/
def decodeTableWord (nbits w : Nat) : Option Instr :=
  match tableWord nbits w with
  | some cw => (decode cw).toOption
  | none => none

/-! ### Encoding -/

/-- The code word of an operation or wire word. -/
def encode : Instr → CodeWord
  | .init => .state4 0b0000#4
  | .sendReg => .state4 0b0001#4
  | .w4RegActive => .state4 0b0010#4
  | .w4RegComplete => .state4 0b0011#4
  | .sendValue => .state4 0b0100#4
  | .w4ValueActive => .state4 0b0101#4
  | .w4ValueComplete => .state4 0b0110#4
  | .configNext => .state4 0b0111#4
  | .tick => .state4 0b1000#4
  | .sendUpdate => .state4 0b1001#4
  | .w4UpdateActive => .state4 0b1010#4
  | .w4UpdateComplete => .state4 0b1011#4
  | .getRow => .state4 0b1100#4
  | .waitForRow => .state4 0b1101#4
  | .sendRow => .state4 0b1110#4
  | .rowSent => .state4 0b1111#4
  | .serDisabled z v p c => .serCond (SerCond.bits ⟨false, z, v, p, c⟩)
  | .serIdle p c => .serCond (SerCond.bits ⟨true, true, false, p, c⟩)
  | .serAccept p c => .serCond (SerCond.bits ⟨true, true, true, p, c⟩)
  | .serWait v c => .serCond (SerCond.bits ⟨true, false, v, false, c⟩)
  | .serRise v => .serCond (SerCond.bits ⟨true, false, v, true, false⟩)
  | .serFall v => .serCond (SerCond.bits ⟨true, false, v, true, true⟩)
  | .cfgWord0 => .wire16 0x0C00#16
  | .cfgWord1 => .wire16 0x0F00#16
  | .cfgWord2 => .wire16 0x0B07#16
  | .cfgWord3 => .wire16 0x0900#16
  | .cfgWord4 => .wire16 0x0C01#16
  | .cfgWord5 => .wire16 0x0A02#16
  | .rowWord sel bitmap => .wire16 (0#4 ++ sel ++ bitmap)

end Sys2Proof
end

