-- ==== Sys2Proof/Machine/State.lean ====
section
/-! DEFINITION. The state of the core (10_state.md), the reasons a step can stop, and the reset state (R44). -/

namespace Sys2Proof.Machine

/-- The 15 registers of the orchestrator (10_state.md R16 to R30). -/
structure Orchestrator where
  /-- `O.state` (R16): the tag whose rule is evaluated in this tick. -/
  state : StateTag
  /-- `O.step` (R17): the configuration entry being sent, 0 to 5. -/
  step : Fin 6
  /-- `O.digitIndex` (R18): the module addressed and the digit rendered. -/
  digitIndex : BitVec 2
  /-- `O.rowIndex` (R19): the pixel row being rendered. -/
  rowIndex : BitVec 3
  /-- `O.refreshPending` (R20). -/
  refreshPending : Bool
  /-- `O.prescaleCounter` (R21): inert, read by no rule. -/
  prescaleCounter : Nat
  /-- `O.serEnable` (R22): the request that the serializer be enabled. -/
  serEnable : Bool
  /-- `O.outValid` (R23): the valid of the byte stream toward the serializer. -/
  outValid : Bool
  /-- `O.outPayload` (R24): its payload. -/
  outPayload : Byte
  /-- `O.reqValid` (R25): the valid of the glyph request stream. -/
  reqValid : Bool
  /-- `O.reqChar` (R26): the request's character. -/
  reqChar : Byte
  /-- `O.reqRow` (R27): the request's row. -/
  reqRow : Byte
  /-- `O.respReady` (R28): the ready of the glyph response stream. -/
  respReady : Bool
  /-- `O.bitmap` (R29): the last row bitmap received, read by no rule. -/
  bitmap : Byte
  /-- `O.snap[0..3]` (R30): the digit snapshot. -/
  snap : Digits
deriving DecidableEq, Repr

/-- The 5 registers of the serializer (10_state.md R31 to R35). -/
structure Serializer where
  /-- `S.count` (R31): bits remaining, 0 means idle. -/
  count : Fin 9
  /-- `S.shiftReg` (R32): the byte being sent, sent bits shifted out at the top. -/
  shiftReg : Byte
  /-- `S.clkPhase` (R33): the level of the serial clock. -/
  clkPhase : Bool
  /-- `S.prescaleCounter` (R34): the clock divider, 0 to PRESCALER. -/
  prescaleCounter : Nat
  /-- `S.dataOut` (R35): the level of the serial data line. -/
  dataOut : Bool
deriving DecidableEq, Repr

/-- The three serial lines in one tick (00_scope.md R14 (b)). -/
structure WireSample where
  cs : Bool
  sclk : Bool
  mosi : Bool
deriving DecidableEq, Repr

/-- What a claim observes of a run up to the current tick (00_scope.md R14). It is written by every step and read by no
register's rule. The model's own, DESIGN CHOICE (log 4). -/
structure Observed where
  /-- The payload stream: the payloads of all transfers so far (R14 (a), R63). -/
  payloads : List Byte
  /-- The wire trace: the three serial lines in every tick so far, tick 0 first (R14 (b)). -/
  trace : List WireSample
  /-- `sclk` in the previous tick; none before the first tick (R59). -/
  lastSclk : Option Bool
  /-- The bits of the byte that is being read off the wire (R59 `bits`). -/
  bits : List Bool
  /-- The bytes read off the wire so far (R59 `bytes`). -/
  bytes : List Byte
  /-- The first byte of a word whose second byte has not been read yet (R53). -/
  half : Option Byte
  /-- The 16-bit words sent so far (R53, R78, R79). -/
  words : List WireWord
deriving DecidableEq, Repr

/-- The whole machine at the start of a tick. -/
structure State where
  /-- `PRESCALER` (R7): the parameter of the instance, written by no step (log 3). -/
  prescaler : Nat
  /-- The orchestrator's registers. -/
  o : Orchestrator
  /-- The serializer's registers. -/
  ser : Serializer
  /-- What has been observed so far (R14). -/
  obs : Observed
  /-- The inputs of this tick and of the ticks after it; beyond the list's end they are free (log 2). -/
  inputs : List Inputs
  /-- The number of this tick (R12). -/
  tick : Nat
deriving DecidableEq, Repr

/-- The reasons a step faults: none (60_exceptions.md R147: the set of synchronous exceptions is empty). -/
inductive Fault where
deriving DecidableEq, Repr

/-- The reasons a step is refused. -/
inductive Refusal where
  /-- Raised by `exec` for an operation without a meaning; no arm raises it. Safe: the machine stops. -/
  | notModelled (mnemonic : String)
  /-- Raised by every operation of a component whose prescale counter is above PRESCALER, in a tick with `en = 1`: the spec
  says to treat this register value, which no run from reset reaches, as refused (30_encoding.md R86, U6; log 11). Safe: the
  machine stops. -/
  | prescaleCounterOutOfRange
deriving DecidableEq, Repr

/-- The reset state of an instance with `PRESCALER = p`: every register as the table of 10_state.md R44 has it, nothing
observed, no input scheduled, tick 0. -/
def State.resetWith (p : Nat) : State where
  prescaler := p
  o :=
    { state := .init
      step := 0
      digitIndex := Config.LAST
      rowIndex := 0#3
      refreshPending := true
      prescaleCounter := p
      serEnable := false
      outValid := false
      outPayload := 0x00#8
      reqValid := false
      reqChar := 0x00#8
      reqRow := 0x00#8
      respReady := false
      bitmap := 0x00#8
      snap := ⟨0#4, 0#4, 0#4, 0#4⟩ }
  ser :=
    { count := 0
      shiftReg := 0x00#8
      clkPhase := false
      prescaleCounter := p
      dataOut := false }
  obs :=
    { payloads := []
      trace := []
      lastSclk := none
      bits := []
      bytes := []
      half := none
      words := [] }
  inputs := []
  tick := 0

/-- The machine right after reset (10_state.md R44, 70_reset_and_hazards.md R173), for the open parameter. -/
def State.reset : State := State.resetWith Config.PRESCALER

end Sys2Proof.Machine
end

