-- ==== Sys2Proof/Machine/Operands.lean ====
section
/-! DEFINITION. Operand assembly and the arithmetic of the operations (30_encoding.md R82 to R85, R91; 20_memory.md R47,
R48, R50). -/

namespace Sys2Proof.Machine

/-- Which byte of a configuration entry (20_memory.md R48). -/
inductive RomSel where
  | reg
  | val
deriving DecidableEq, Repr

/-- The configuration ROM (20_memory.md R47): the register byte and the value byte of each entry. -/
def cfgEntry (step : Fin 6) : Byte × Byte :=
  match step with
  | 0 => (0x0C#8, 0x00#8)
  | 1 => (0x0F#8, 0x00#8)
  | 2 => (0x0B#8, 0x07#8)
  | 3 => (0x09#8, 0x00#8)
  | 4 => (0x0C#8, 0x01#8)
  | 5 => (0x0A#8, 0x02#8)

/-- `CfgRead(step, sel)` (20_memory.md R48). -/
def cfgRead (step : Fin 6) (sel : RomSel) : Byte :=
  match sel with
  | .reg => (cfgEntry step).1
  | .val => (cfgEntry step).2

/-- Entry `i` of four digits (20_memory.md R50). -/
def digitAt (d : Digits) (i : BitVec 2) : Digit :=
  if i = 0#2 then d.d0 else if i = 1#2 then d.d1 else if i = 2#2 then d.d2 else d.d3

/-- The row-select byte, `zext_8(O.rowIndex) + 1` (30_encoding.md R82). -/
def rowSelectByte (row : BitVec 3) : Byte := row.zeroExtend 8 + 1#8

/-- The character code, `zext_8(digit) + 0x30` (30_encoding.md R83). PRESUMED by the spec: `'0'` is 0x30 (G1; log 16). -/
def charCode (d : Digit) : Byte := d.zeroExtend 8 + 0x30#8

/-- The row field of a request, `zext_8(O.rowIndex)` (30_encoding.md R84). -/
def rowField (row : BitVec 3) : Byte := row.zeroExtend 8

/-- `O.step + 1`, applied only where `O.step < 5` (30_encoding.md R91). -/
def nextEntry (step : Fin 6) : Fin 6 := step + 1

/-- `S.count - 1`, applied only where `S.count` is not 0; natural-number subtraction, as 30_encoding.md R91 allows. -/
def countDown (count : Fin 9) : Fin 9 := ⟨count.val - 1, by omega⟩

/-- `S.shiftReg[7]` (43_serializer.md R137). -/
def topBit (b : Byte) : Bool := b.getLsbD 7

/-- `(S.shiftReg << 1)[7:0]` (43_serializer.md R137). -/
def shiftLeftOne (b : Byte) : Byte := b <<< 1

/-- The frame word of a select field and a bitmap (30_encoding.md R79). -/
def frameWord (sel : BitVec 4) (bitmap : Byte) : WireWord := 0#4 ++ sel ++ bitmap

/-- The byte whose bit 7 is the first element of the list and bit 0 the eighth (20_memory.md R59). -/
def byteOfBits (l : List Bool) : Byte := l.foldl (fun b x => b.shiftConcat x) 0#8

end Sys2Proof.Machine
end

