-- ==== Sys2Proof/Machine/Flags.lean ====
section
/-! DEFINITION. The wires of a tick (40_composition.md R94, R96, R97; 20_memory.md R63), the outputs, the condition vector
of the serializer (30_encoding.md R76) and the refresh latch (60_exceptions.md R155): all functions of the state's current
registers and this tick's inputs. -/

namespace Sys2Proof.Machine

/-- The input pins in this tick: the first scheduled ones, or free ones where none is scheduled (log 2). -/
def State.input (s : State) : Inputs :=
  match s.inputs with
  | i :: _ => i
  | [] => Config.envInputs s.tick

/-- `ser_en = en and O.serEnable` (40_composition.md R96). -/
def State.serEn (s : State) : Bool := s.input.en && s.o.serEnable

/-- `ser_ready = ser_en and (S.count = 0)` (40_composition.md R96, 10_state.md R37). -/
def State.serReady (s : State) : Bool := s.serEn && decide (s.ser.count = 0)

/-- `xfer = out_valid and ser_ready` (40_composition.md R96, 20_memory.md R63). -/
def State.xfer (s : State) : Bool := s.o.outValid && s.serReady

/-- The condition vector of this tick (30_encoding.md R76). -/
def State.serCond (s : State) : SerCond where
  e := s.serEn
  z := decide (s.ser.count = 0)
  v := s.o.outValid
  p := decide (s.ser.prescaleCounter = 0)
  c := s.ser.clkPhase

/-- The output pins in one tick (40_composition.md R93). -/
structure Outputs where
  greqValid : Bool
  greqChar : Byte
  greqRow : Byte
  grespReady : Bool
  sclk : Bool
  mosi : Bool
  cs : Bool
deriving DecidableEq, Repr

/-- The output function (40_composition.md R94): each output is a current register, except `cs`. -/
def State.outputs (s : State) : Outputs where
  greqValid := s.o.reqValid
  greqChar := s.o.reqChar
  greqRow := s.o.reqRow
  grespReady := s.o.respReady
  sclk := s.ser.clkPhase
  mosi := s.ser.dataOut
  cs := s.serEn

/-- The refresh latch, applied after the state rule's writes, so that a set wins over a clear (60_exceptions.md R155,
40_composition.md R99). -/
def refreshLatch (refresh : Bool) (o : Orchestrator) : Orchestrator :=
  { o with refreshPending := refresh || o.refreshPending }

end Sys2Proof.Machine
end

