-- ==== Sys2Proof/Machine/Ops.lean ====
section
/-! DEFINITION. The operations the meanings share: reset entry (the one trap-like event, 60_exceptions.md R157), the tick of
each component, the three-phase push (40_composition.md R105), the wire-decode function (20_memory.md R59), the commit of a
tick (20_memory.md R62), and where a code word is placed to be run next. -/

namespace Sys2Proof.Machine

/-- What an operation answers. -/
abbrev Result := Host.Outcome State Fault Refusal

/-! ### Reset entry (60_exceptions.md R157)

Nothing is saved and there is no return operation (R157, R159): the registers take the values of 10_state.md R44. -/

/-- The orchestrator's registers in the tick after one with `en = 0`. -/
def resetOrchestrator (p : Nat) : Orchestrator where
  state := .init
  step := 0
  digitIndex := Config.LAST
  rowIndex := 0#3
  refreshPending := true
  prescaleCounter := p
  serEnable := false
  outValid := false
  outPayload := 0x00#8
  reqValid := false
  reqChar := 0x00#8
  reqRow := 0x00#8
  respReady := false
  bitmap := 0x00#8
  snap := ⟨0#4, 0#4, 0#4, 0#4⟩

/-- The serializer's registers in the tick after one with `ser_en = 0` (43_serializer.md R133). -/
def resetSerializer (p : Nat) : Serializer where
  count := 0
  shiftReg := 0x00#8
  clkPhase := false
  prescaleCounter := p
  dataOut := false

/-! ### One component's tick -/

/-- The orchestrator's part of a tick with the state rule `rule`: reset entry where `en = 0`, which overrides everything and
acts from every state; else the rule's writes and then the refresh latch (40_composition.md R98, R99; 60_exceptions.md R157,
R158). A counter above PRESCALER is refused (30_encoding.md R86, U6; log 11). -/
def orchTick (s : State) (rule : Orchestrator → Orchestrator) : Result :=
  if s.input.en then
    if s.prescaler < s.o.prescaleCounter then .refused .prescaleCounterOutOfRange
    else .next { s with o := refreshLatch s.input.refresh (rule s.o) }
  else .next { s with o := resetOrchestrator s.prescaler }

/-- The serializer's part of a tick with the operation `f` (40_composition.md R100). A counter above PRESCALER is refused
(30_encoding.md R86, U6; log 11). -/
def serTick (s : State) (f : Serializer → Serializer) : Result :=
  if s.prescaler < s.ser.prescaleCounter then .refused .prescaleCounterOutOfRange
  else .next { s with ser := f s.ser }

/-- The serializer's reset, in a tick with `ser_en = 0` (43_serializer.md R133): with `en = 0` it acts from every state
(60_exceptions.md R157); with `en = 1` it is a serializer operation as any other. -/
def serReset (s : State) : Result :=
  if s.input.en then serTick s fun _ => resetSerializer s.prescaler
  else .next { s with ser := resetSerializer s.prescaler }

/-! ### The three-phase byte push (40_composition.md R105) -/

/-- Phase `Send`: offer `b` in every tick, leave for `next` when the serializer is ready. -/
def pushSend (ready : Bool) (b : Byte) (next : StateTag) (o : Orchestrator) : Orchestrator :=
  { o with outPayload := b, outValid := true, state := if ready then next else o.state }

/-- Phase `Active`: withdraw the offer in every tick, leave for `next` when the serializer is seen busy. -/
def pushActive (ready : Bool) (next : StateTag) (o : Orchestrator) : Orchestrator :=
  { o with outValid := false, state := if ready then o.state else next }

/-- Phase `Complete`: leave for `next` when the serializer is ready again. -/
def pushComplete (ready : Bool) (next : StateTag) (o : Orchestrator) : Orchestrator :=
  { o with state := if ready then next else o.state }

/-- `O.serEnable <- 1` (41_orchestrator_config.md R112, 42_orchestrator_render.md R123). -/
def enableSerializer (o : Orchestrator) : Orchestrator := { o with serEnable := true }

/-! ### The wire as a receiver reads it (20_memory.md R59) -/

/-- The serial lines in this tick. -/
def State.wire (s : State) : WireSample := ⟨s.outputs.cs, s.outputs.sclk, s.outputs.mosi⟩

/-- Whether a rising clock edge is seen in a tick whose lines are `w` (R59). -/
def Observed.edge (r : Observed) (w : WireSample) : Bool := w.cs && (r.lastSclk == some false) && w.sclk

/-- The byte that is complete with this tick's sample (R59). -/
def Observed.byteDone (r : Observed) (w : WireSample) : Option Byte :=
  if r.edge w && decide ((r.bits ++ [w.mosi]).length = 8) then some (byteOfBits (r.bits ++ [w.mosi])) else none

/-- The 16-bit word that is complete with this tick's sample: every two consecutive bytes form one (20_memory.md R53). -/
def Observed.wordDone (r : Observed) (w : WireSample) : Option WireWord :=
  match r.half, r.byteDone w with
  | some b1, some b0 => some (b1 ++ b0)
  | _, _ => none

/-- One tick of the wire-decode function (R59): with `cs` low a partial byte is discarded, and a word cut in two with it
(words count from the rise of `cs`, R60; log 4). -/
def Observed.sample (r : Observed) (w : WireSample) : Observed :=
  { r with
    trace := r.trace ++ [w]
    lastSclk := some w.sclk
    bits :=
      if !w.cs then []
      else if r.edge w then (if (r.bits ++ [w.mosi]).length = 8 then [] else r.bits ++ [w.mosi])
      else r.bits
    bytes :=
      match r.byteDone w with
      | some b => r.bytes ++ [b]
      | none => r.bytes
    half :=
      if !w.cs then none
      else
        match r.byteDone w with
        | some b => if r.half.isSome then none else some b
        | none => r.half }

/-- The loop of 20_memory.md R59 from one tick on: `prev` is `sclk` in the tick before, none in tick 0, and `bits` the bits
of the byte that is being read. -/
def wireDecodeFrom (prev : Option Bool) (bits : List Bool) : List WireSample → List Byte
  | [] => []
  | w :: l =>
    if w.cs = false then wireDecodeFrom (some w.sclk) [] l
    else if prev = some false ∧ w.sclk = true then
      if (bits ++ [w.mosi]).length = 8 then byteOfBits (bits ++ [w.mosi]) :: wireDecodeFrom (some w.sclk) [] l
      else wireDecodeFrom (some w.sclk) (bits ++ [w.mosi]) l
    else wireDecodeFrom (some w.sclk) bits l

/-- The byte stream of a whole wire trace (20_memory.md R59, 00_scope.md R14 (b)). -/
def wireDecode (trace : List WireSample) : List Byte := wireDecodeFrom none [] trace

/-- A 16-bit word has been sent (20_memory.md R53). -/
def State.recordWord (w : WireWord) (s : State) : State :=
  { s with obs := { s.obs with words := s.obs.words ++ [w] } }

/-! ### Fetching: which operations a tick runs -/

/-- The orchestrator's operation: the one whose code `O.state` holds (30_encoding.md R71, R72). -/
def State.orchOp (s : State) : Instr := s.o.state.op

/-- The serializer's operation: the one the condition vector selects (30_encoding.md R76). -/
def State.serOp (s : State) : Instr := s.serCond.op

/-- The word completed on the wire in this tick, if it is one of the table. -/
def State.wordOp (s : State) : Option Instr :=
  match s.obs.wordDone s.wire with
  | some w => (decode (.wire16 w)).toOption
  | none => none

/-- Where no word of the table is completed: a completed word in no format is recorded all the same (R53). -/
def State.recordOther (s : State) : State :=
  match s.obs.wordDone s.wire with
  | some w => s.recordWord w
  | none => s

/-! ### The commit (20_memory.md R62) -/

/-- Phase 2 of a tick from `s`: the orchestrator's registers as `a` has them, the serializer's as `b` has them, the words
sent as `c` has them, all three computed from `s`; the tick's transfer and its sample of the wire are observed and the next
tick's inputs come up. -/
def commit (s a b c : State) : State where
  prescaler := s.prescaler
  o := a.o
  ser := b.ser
  obs :=
    { s.obs.sample s.wire with
      payloads := s.obs.payloads ++ (if s.xfer then [s.o.outPayload] else [])
      words := c.obs.words }
  inputs := s.inputs.tail
  tick := s.tick + 1

/-! ### Placing a code word where the next tick runs it (log 13) -/

/-- This tick's inputs with `en = 1`, all other pins as they were. -/
def State.withEnable (s : State) : State :=
  { s with inputs := { s.input with en := true } :: s.inputs.tail }

/-- Both prescale counters at 0, the one value that is in range for every PRESCALER, so that no operation refuses. -/
def State.withCountersInRange (s : State) : State :=
  { s with o := { s.o with prescaleCounter := 0 }, ser := { s.ser with prescaleCounter := 0 } }

/-- A state tag in `O.state`, with `en = 1` and the counters in range. -/
def placeState4 (w : BitVec 4) (s : State) : State :=
  let u := s.withEnable.withCountersInRange
  { u with o := { u.o with state := StateTag.ofCode w } }

/-- The registers a condition vector is made of, so that this tick's vector is `k`. A vector with `p = 0` needs a counter
above 0, here 1, and so a PRESCALER above 0, which the open parameter may not give: it is raised to PRESCALER + 1. -/
def placeSerCond (k : SerCond) (s : State) : State :=
  { s.withEnable with
    prescaler := if k.p then s.prescaler else s.prescaler + 1
    o := { s.o with
      serEnable := k.e
      outValid := k.v
      prescaleCounter := 0 }
    ser := { s.ser with
      count := if k.z then 0 else if s.ser.count = 0 then 8 else s.ser.count
      prescaleCounter := if k.p then 0 else 1
      clkPhase := k.c } }

/-- A wire word about to be completed: its first byte and seven bits of its second have been read, and the clock rises on
the eighth. -/
def placeWire16 (w : WireWord) (s : State) : State :=
  { s.withEnable with
    o := { s.o with serEnable := true, prescaleCounter := 0 }
    ser := { s.ser with count := 1, prescaleCounter := 0, clkPhase := true, dataOut := w.getLsbD 0 }
    obs := { s.obs with
      lastSclk := some false
      half := some (w.extractLsb' 8 8)
      bits := [w.getLsbD 7, w.getLsbD 6, w.getLsbD 5, w.getLsbD 4, w.getLsbD 3, w.getLsbD 2, w.getLsbD 1] } }

/-- A code word placed where the next tick runs it. -/
def placeWord (cw : CodeWord) (s : State) : State :=
  match cw with
  | .state4 w => placeState4 w s
  | .serCond w => placeSerCond (SerCond.ofBits w) s
  | .wire16 w => placeWire16 w s

end Sys2Proof.Machine
end

