-- ==== Sys2Proof/Machine/BitSerializer.lean ====
section
/-! DEFINITION. The six operations of the bit serializer (43_serializer.md). Which one a tick runs is the condition
vector's affair (30_encoding.md R76); a meaning is the operation's writes. -/

namespace Sys2Proof.Machine

/-- `SER.DISABLED` (R133). -/
def execSerDisabled (s : State) : Result :=
  serReset s

/-- `SER.IDLE` (R134): no write. -/
def execSerIdle (s : State) : Result :=
  serTick s fun r => r

/-- `SER.ACCEPT` (R135): the first bit is not put on the data line (R146). -/
def execSerAccept (s : State) : Result :=
  serTick s fun r => { r with shiftReg := s.o.outPayload, count := 8 }

/-- `SER.WAIT` (R136). -/
def execSerWait (s : State) : Result :=
  serTick s fun r => { r with prescaleCounter := r.prescaleCounter - 1 }

/-- `SER.RISE` (R137): the top bit goes to the data line with the rising edge. -/
def execSerRise (s : State) : Result :=
  serTick s fun r =>
    { r with
      prescaleCounter := s.prescaler
      clkPhase := true
      dataOut := topBit r.shiftReg
      shiftReg := shiftLeftOne r.shiftReg }

/-- `SER.FALL` (R138): the falling edge ends a bit cell, and the bit count goes down here (C2). -/
def execSerFall (s : State) : Result :=
  serTick s fun r =>
    { r with prescaleCounter := s.prescaler, clkPhase := false, count := countDown r.count }

end Sys2Proof.Machine
end

