-- ==== Sys2Proof/Machine/Render.lean ====
section
/-! DEFINITION. The glyph-fetch and render arbiter: the states with codes 8 to 15 (42_orchestrator_render.md). -/

namespace Sys2Proof.Machine

/-- `Tick` (R122): waits for a pending refresh, then starts a frame on a snapshot of the four digits. -/
def execTick (s : State) : Result :=
  orchTick s fun o =>
    if o.refreshPending then
      { o with
        refreshPending := false
        digitIndex := Config.LAST
        rowIndex := 0#3
        snap := s.input.digits
        state := .sendUpdate }
    else o

/-- `SendUpdate` (R123). -/
def execSendUpdate (s : State) : Result :=
  orchTick s fun o => pushSend s.serReady (rowSelectByte o.rowIndex) .w4UpdateActive (enableSerializer o)

/-- `W4UpdateActive` (R124). -/
def execW4UpdateActive (s : State) : Result :=
  orchTick s (pushActive s.serReady .w4UpdateComplete)

/-- `W4UpdateComplete` (R125). -/
def execW4UpdateComplete (s : State) : Result :=
  orchTick s (pushComplete s.serReady .getRow)

/-- `GetRow` (R126). -/
def execGetRow (s : State) : Result :=
  orchTick s fun o =>
    { o with
      reqChar := charCode (digitAt o.snap o.digitIndex)
      reqRow := rowField o.rowIndex
      reqValid := true
      respReady := true
      state := .waitForRow }

/-- `WaitForRow` (R127): waits for the renderer's response and takes it. -/
def execWaitForRow (s : State) : Result :=
  orchTick s fun o =>
    if s.input.grespValid then
      { o with
        bitmap := s.input.grespBitmap
        reqValid := false
        respReady := false
        outPayload := s.input.grespBitmap
        outValid := true
        state := .sendRow }
    else o

/-- `SendRow` (R128). -/
def execSendRow (s : State) : Result :=
  orchTick s fun o =>
    if s.serReady then { o with outValid := false, state := .rowSent } else o

/-- `RowSent` (R129): next module, else next row, else the end of the frame. -/
def execRowSent (s : State) : Result :=
  orchTick s fun o =>
    if 0#2 < o.digitIndex then
      { o with digitIndex := o.digitIndex - 1#2, state := .sendUpdate }
    else if o.rowIndex < 7#3 then
      { o with rowIndex := o.rowIndex + 1#3, digitIndex := Config.LAST, state := .sendUpdate }
    else
      { o with state := .tick }

end Sys2Proof.Machine
end

