-- ==== Sys2Proof/Machine/Sequencer.lean ====
section
/-! DEFINITION. The configuration sequencer: the states with codes 0 to 7 (41_orchestrator_config.md). Each meaning is one
state rule; reset entry and the refresh latch around it are `orchTick`. -/

namespace Sys2Proof.Machine

/-- `Init` (R111). -/
def execInit (s : State) : Result :=
  orchTick s fun o =>
    { o with
      step := 0
      digitIndex := Config.LAST
      refreshPending := true
      prescaleCounter := s.prescaler
      state := .sendReg }

/-- `SendReg` (R112). -/
def execSendReg (s : State) : Result :=
  orchTick s fun o => pushSend s.serReady (cfgRead o.step .reg) .w4RegActive (enableSerializer o)

/-- `W4RegActive` (R113). -/
def execW4RegActive (s : State) : Result :=
  orchTick s (pushActive s.serReady .w4RegComplete)

/-- `W4RegComplete` (R114). -/
def execW4RegComplete (s : State) : Result :=
  orchTick s (pushComplete s.serReady .sendValue)

/-- `SendValue` (R115). -/
def execSendValue (s : State) : Result :=
  orchTick s fun o => pushSend s.serReady (cfgRead o.step .val) .w4ValueActive o

/-- `W4ValueActive` (R116). -/
def execW4ValueActive (s : State) : Result :=
  orchTick s (pushActive s.serReady .w4ValueComplete)

/-- `W4ValueComplete` (R117). -/
def execW4ValueComplete (s : State) : Result :=
  orchTick s (pushComplete s.serReady .configNext)

/-- `ConfigNext` (R118): next module, else next entry, else the end of the configuration. -/
def execConfigNext (s : State) : Result :=
  orchTick s fun o =>
    if 0#2 < o.digitIndex then
      { o with digitIndex := o.digitIndex - 1#2, state := .sendReg }
    else if o.step < 5 then
      { o with digitIndex := Config.LAST, step := nextEntry o.step, state := .sendReg }
    else
      { o with digitIndex := Config.LAST, serEnable := false, state := .tick }

end Sys2Proof.Machine
end

