-- ==== Sys2Proof/Machine/WireWords.lean ====
section
/-! DEFINITION. The words on the wire (30_encoding.md R78, R79; 20_memory.md R47, R53). The table calls them data sent on
the wire, not operations of the core: the effect of one is that it has been sent to a driver chip. What the chip does with
it is outside the spec (R53; log 8). -/

namespace Sys2Proof.Machine

/-- `CFGWORD0`, 0x0C00 (R47, R78). -/
def execCfgWord0 (s : State) : Result := .next (s.recordWord 0x0C00#16)

/-- `CFGWORD1`, 0x0F00 (R47, R78). -/
def execCfgWord1 (s : State) : Result := .next (s.recordWord 0x0F00#16)

/-- `CFGWORD2`, 0x0B07 (R47, R78). -/
def execCfgWord2 (s : State) : Result := .next (s.recordWord 0x0B07#16)

/-- `CFGWORD3`, 0x0900 (R47, R78). -/
def execCfgWord3 (s : State) : Result := .next (s.recordWord 0x0900#16)

/-- `CFGWORD4`, 0x0C01 (R47, R78). -/
def execCfgWord4 (s : State) : Result := .next (s.recordWord 0x0C01#16)

/-- `CFGWORD5`, 0x0A02 (R47, R78). -/
def execCfgWord5 (s : State) : Result := .next (s.recordWord 0x0A02#16)

/-- `ROWWORD` (R79): the select byte in bits 15 to 8, the bitmap in bits 7 to 0. -/
def execRowWord (sel : BitVec 4) (bitmap : Byte) (s : State) : Result := .next (s.recordWord (frameWord sel bitmap))

end Sys2Proof.Machine
end

