-- ==== Sys2Proof/Machine/Dispatch.lean ====
section
/-! DEFINITION. One arm per constructor of Instr. -/

namespace Sys2Proof.Machine

/-- The meaning of one operation or wire word, computed from the old state. -/
def exec (i : Instr) (s : State) : Host.Outcome State Fault Refusal :=
  match i with
  | .init => Sys2Proof.Machine.execInit s
  | .sendReg => Sys2Proof.Machine.execSendReg s
  | .w4RegActive => Sys2Proof.Machine.execW4RegActive s
  | .w4RegComplete => Sys2Proof.Machine.execW4RegComplete s
  | .sendValue => Sys2Proof.Machine.execSendValue s
  | .w4ValueActive => Sys2Proof.Machine.execW4ValueActive s
  | .w4ValueComplete => Sys2Proof.Machine.execW4ValueComplete s
  | .configNext => Sys2Proof.Machine.execConfigNext s
  | .tick => Sys2Proof.Machine.execTick s
  | .sendUpdate => Sys2Proof.Machine.execSendUpdate s
  | .w4UpdateActive => Sys2Proof.Machine.execW4UpdateActive s
  | .w4UpdateComplete => Sys2Proof.Machine.execW4UpdateComplete s
  | .getRow => Sys2Proof.Machine.execGetRow s
  | .waitForRow => Sys2Proof.Machine.execWaitForRow s
  | .sendRow => Sys2Proof.Machine.execSendRow s
  | .rowSent => Sys2Proof.Machine.execRowSent s
  | .serDisabled _ _ _ _ => Sys2Proof.Machine.execSerDisabled s
  | .serIdle _ _ => Sys2Proof.Machine.execSerIdle s
  | .serAccept _ _ => Sys2Proof.Machine.execSerAccept s
  | .serWait _ _ => Sys2Proof.Machine.execSerWait s
  | .serRise _ => Sys2Proof.Machine.execSerRise s
  | .serFall _ => Sys2Proof.Machine.execSerFall s
  | .cfgWord0 => Sys2Proof.Machine.execCfgWord0 s
  | .cfgWord1 => Sys2Proof.Machine.execCfgWord1 s
  | .cfgWord2 => Sys2Proof.Machine.execCfgWord2 s
  | .cfgWord3 => Sys2Proof.Machine.execCfgWord3 s
  | .cfgWord4 => Sys2Proof.Machine.execCfgWord4 s
  | .cfgWord5 => Sys2Proof.Machine.execCfgWord5 s
  | .rowWord sel bitmap => Sys2Proof.Machine.execRowWord sel bitmap s

end Sys2Proof.Machine
end

