-- ==== Sys2Proof/Machine/Step.lean ====
section
/-! DEFINITION. One tick of the core (40_composition.md R98): the orchestrator's operation, the serializer's operation and,
where a 16-bit word is completed on the wire, that word, each computed from the same old state, and then the commit. -/

namespace Sys2Proof.Machine

/-- The word completed on the wire in this tick, run as the table's word it is. -/
def runWord (s : State) : Host.Outcome State Fault Refusal :=
  match s.wordOp with
  | some i => exec i s
  | none => .next s.recordOther

/-- One tick (R98). -/
def step (s : State) : Host.Outcome State Fault Refusal :=
  match exec s.orchOp s with
  | .next a =>
    match exec s.serOp s with
    | .next b =>
      match runWord s with
      | .next c => .next (commit s a b c)
      | .fault r => .fault r
      | .refused r => .refused r
    | .fault r => .fault r
    | .refused r => .refused r
  | .fault r => .fault r
  | .refused r => .refused r

/-- The state with an instruction of `nbits` bits and value `w` placed where the next step runs it: a state tag in
`O.state`, a condition vector in the registers it is made of, a wire word about to be completed (log 13). A word the table
does not have leaves the state as it is. -/
def State.withFetchWord (s : State) (nbits w : Nat) : State :=
  match tableWord nbits w with
  | some cw => placeWord cw s
  | none => s

end Sys2Proof.Machine
end

