-- ==== Sys2Proof/Safety.lean ====
section
/-! DEFINITION. What the claims speak of: the operations by component, the successor table of the orchestrator
(40_composition.md R104), the invariants of reachable states (10_state.md R45 and what follows from the state rules), the
ticks a byte and a wait still take (43_serializer.md R141, 40_composition.md R106), the order of the bytes
(41_orchestrator_config.md R119, 42_orchestrator_render.md R130) and the byte in flight between the transfer and the wire
(10_state.md R43, 20_memory.md R59). -/

namespace Sys2Proof.Machine

/-! ### Operations by component -/

/-- The 16 operations of the orchestrator (30_encoding.md R71). -/
abbrev orchestratorOps : List Instr :=
  [.init, .sendReg, .w4RegActive, .w4RegComplete, .sendValue, .w4ValueActive, .w4ValueComplete, .configNext,
   .tick, .sendUpdate, .w4UpdateActive, .w4UpdateComplete, .getRow, .waitForRow, .sendRow, .rowSent]

/-- The states of the configuration sequencer (30_encoding.md R71: codes 0 to 7). -/
abbrev configStates : List StateTag :=
  [.init, .sendReg, .w4RegActive, .w4RegComplete, .sendValue, .w4ValueActive, .w4ValueComplete, .configNext]

/-- The states between a Tick that starts a frame and the Tick that follows the frame. -/
abbrev frameStates : List StateTag :=
  [.sendUpdate, .w4UpdateActive, .w4UpdateComplete, .getRow, .waitForRow, .sendRow, .rowSent]

/-! ### The successor table (40_composition.md R104) -/

/-- The next state tag in a tick with `en = 1`, row by row as the table has it. -/
def successor (s : State) : StateTag :=
  match s.o.state with
  | .init => .sendReg
  | .sendReg => if s.serReady then .w4RegActive else .sendReg
  | .w4RegActive => if s.serReady then .w4RegActive else .w4RegComplete
  | .w4RegComplete => if s.serReady then .sendValue else .w4RegComplete
  | .sendValue => if s.serReady then .w4ValueActive else .sendValue
  | .w4ValueActive => if s.serReady then .w4ValueActive else .w4ValueComplete
  | .w4ValueComplete => if s.serReady then .configNext else .w4ValueComplete
  | .configNext => if s.o.digitIndex = 0#2 ∧ s.o.step = 5 then .tick else .sendReg
  | .tick => if s.o.refreshPending then .sendUpdate else .tick
  | .sendUpdate => if s.serReady then .w4UpdateActive else .sendUpdate
  | .w4UpdateActive => if s.serReady then .w4UpdateActive else .w4UpdateComplete
  | .w4UpdateComplete => if s.serReady then .getRow else .w4UpdateComplete
  | .getRow => .waitForRow
  | .waitForRow => if s.input.grespValid then .sendRow else .waitForRow
  | .sendRow => if s.serReady then .rowSent else .sendRow
  | .rowSent => if s.o.digitIndex = 0#2 ∧ s.o.rowIndex = 7#3 then .tick else .sendUpdate

/-! ### Invariants of 10_state.md R45 (its items 1 and 2 hold by type) -/

/-- The orchestrator's counter is not above PRESCALER; with `en = 1` its operations refuse otherwise (log 11). -/
abbrev OrchInRange (s : State) : Prop := s.o.prescaleCounter ≤ s.prescaler

/-- The serializer's counter is not above PRESCALER; with `en = 1` its operations refuse otherwise (log 11). -/
abbrev SerInRange (s : State) : Prop := s.ser.prescaleCounter ≤ s.prescaler

/-- Item 3. -/
abbrev CountersInRange (s : State) : Prop :=
  s.ser.prescaleCounter ≤ s.prescaler ∧ s.o.prescaleCounter = s.prescaler

/-- Item 4. -/
abbrev IdleClockRests (s : State) : Prop :=
  s.ser.count = 0 → s.ser.clkPhase = false ∧ s.ser.prescaleCounter = s.prescaler

/-- Items 5 and 6. -/
abbrev RequestOnlyWhileWaiting (s : State) : Prop :=
  s.o.reqRow.toNat ≤ 7 ∧ s.o.reqValid = s.o.respReady ∧ (s.o.reqValid = true → s.o.state = .waitForRow)

/-- Item 7. The Tick visit after the configuration is the one that finds the entry at 5 and the module at 3; SendUpdate's
first tick after it has row 0, module 3 and no byte on offer yet. -/
abbrev DisabledOnlyAtEdges (s : State) : Prop :=
  s.o.serEnable = false →
    s.o.state ∈ [StateTag.init, .sendReg] ∨
    (s.o.state = .tick ∧ s.o.step = 5 ∧ s.o.digitIndex = 3#2) ∨
    (s.o.state = .sendUpdate ∧ s.o.outValid = false ∧ s.o.rowIndex = 0#3 ∧ s.o.digitIndex = 3#2)

/-- Item 8. In the first tick of an Active state the serializer either is still idle or has accepted the byte in the tick
before; `FirstTicksOnly` says the rest. -/
abbrev OfferOnlyWhileSending (s : State) : Prop :=
  s.o.outValid = true →
    s.o.state ∈ [StateTag.sendReg, .sendValue, .sendUpdate, .sendRow] ∨
    (s.o.state ∈ [StateTag.w4RegActive, .w4ValueActive, .w4UpdateActive] ∧
      (s.ser.count = 0 ∨ (s.ser.count = 8 ∧ s.ser.clkPhase = false ∧ s.ser.prescaleCounter = s.prescaler)))

/-- The invariants of 10_state.md R45 together. -/
abbrev Inv (s : State) : Prop :=
  CountersInRange s ∧ IdleClockRests s ∧ RequestOnlyWhileWaiting s ∧ DisabledOnlyAtEdges s ∧ OfferOnlyWhileSending s

/-- The words "first" in items 7 and 8, of two states one step apart: an Active state offers a byte only in its first tick;
SendUpdate is disabled only in its first tick, which follows a disabled Tick; and Tick is disabled only in the visit that
follows ConfigNext. -/
abbrev FirstTicksOnly (s t : State) : Prop :=
  (t.o.state ∈ [StateTag.w4RegActive, .w4ValueActive, .w4UpdateActive] → s.o.state = t.o.state → t.o.outValid = false) ∧
  (t.o.state = .sendUpdate → t.o.serEnable = false → s.o.state = .tick ∧ s.o.serEnable = false) ∧
  (t.o.state = .tick → t.o.serEnable = false →
    s.o.state = .configNext ∨ (s.o.state = .tick ∧ s.o.serEnable = false))

/-! ### What the state rules add to them in every reachable state -/

/-- The states that are entered, and left, with the serializer idle (R111, R112, R115, R117, R125, R128), and a disabled
serializer is idle. -/
abbrev IdleWhereExpected (s : State) : Prop :=
  (s.o.state ∈ [StateTag.init, .sendReg, .sendValue, .configNext, .getRow, .waitForRow, .sendRow] → s.ser.count = 0) ∧
  (s.o.serEnable = false → s.ser.count = 0)

/-- An Active state that finds the serializer idle still offers its byte (R106 case B). -/
abbrev ActiveStillOffers (s : State) : Prop :=
  s.o.state ∈ [StateTag.w4RegActive, .w4ValueActive, .w4UpdateActive] → s.ser.count = 0 → s.o.outValid = true

/-- The byte offered, or just transferred, is the state's own (R64, R112, R115, R123, R127); SendValue, which lasts one
tick, offers nothing yet (R115: case B). -/
abbrev OffersItsByte (s : State) : Prop :=
  (s.o.state = .sendReg → s.o.outValid = true → s.o.outPayload = cfgRead s.o.step .reg) ∧
  (s.o.state = .w4RegActive → s.o.outPayload = cfgRead s.o.step .reg) ∧
  (s.o.state = .sendValue → s.o.outValid = false) ∧
  (s.o.state = .w4ValueActive → s.o.outPayload = cfgRead s.o.step .val) ∧
  (s.o.state = .sendUpdate → s.o.outValid = true → s.o.outPayload = rowSelectByte s.o.rowIndex) ∧
  (s.o.state = .w4UpdateActive → s.o.outPayload = rowSelectByte s.o.rowIndex) ∧
  (s.o.state = .sendRow → s.o.outValid = true ∧ s.o.outPayload = s.o.bitmap)

/-- While the orchestrator waits for a glyph row, the request shown is the one for the current digit and row (R126). -/
abbrev RequestIsCurrent (s : State) : Prop :=
  s.o.state = .waitForRow →
    s.o.reqValid = true ∧ s.o.reqChar = charCode (digitAt s.o.snap s.o.digitIndex) ∧ s.o.reqRow = rowField s.o.rowIndex

/-- RowSent finds the bitmap byte accepted one tick before (R128). -/
abbrev RowSentJustAccepted (s : State) : Prop :=
  s.o.state = .rowSent → s.ser.count = 8 ∧ s.ser.clkPhase = false ∧ s.ser.prescaleCounter = s.prescaler

/-- The invariants of a run: those of R45 and the five above. -/
abbrev RunInv (s : State) : Prop :=
  Inv s ∧ IdleWhereExpected s ∧ ActiveStillOffers s ∧ OffersItsByte s ∧ RequestIsCurrent s ∧ RowSentJustAccepted s

/-! ### Ticks still to go -/

/-- The shifting ticks the byte in the serializer still takes (43_serializer.md R140, R141): the rest of the current
half-period and `PRESCALER + 1` ticks for every later one. -/
def busyTicks (s : State) : Nat :=
  if s.ser.count = 0 then 0
  else s.ser.prescaleCounter + 1 + (2 * s.ser.count.val - 1 - (if s.ser.clkPhase then 1 else 0)) * (s.prescaler + 1)

/-- The configuration pairs still to be sent after the current one (20_memory.md R56). -/
def pairsAfter (s : State) : Nat := 4 * (5 - s.o.step.val) + s.o.digitIndex.toNat

/-- The ticks from the start of this tick, `en` held 1, to the first tick in Tick or in WaitForRow, the only states that can
last for ever (60_exceptions.md R148). It is 0 in these two. One configuration pair takes `2K + 7` ticks
(41_orchestrator_config.md R120). -/
def ticksToRest (s : State) : Nat :=
  let k := byteTicks s.prescaler
  let b := busyTicks s
  let rest := pairsAfter s * (2 * k + 7)
  match s.o.state with
  | .init => 1 + 24 * (2 * k + 7)
  | .sendReg => (if s.o.serEnable && s.o.outValid then 2 * k + 6 else 2 * k + 7) + rest
  | .w4RegActive => (if s.ser.count = 0 then 2 * k + 6 else b + k + 5) + rest
  | .w4RegComplete => b + k + 5 + rest
  | .sendValue => k + 4 + rest
  | .w4ValueActive => (if s.ser.count = 0 then k + 3 else b + 2) + rest
  | .w4ValueComplete => b + 2 + rest
  | .configNext => 1 + rest
  | .tick => 0
  | .sendUpdate =>
    if s.ser.count = 0 then (if s.o.serEnable && s.o.outValid then k + 3 else k + 4) else b + k + 3
  | .w4UpdateActive => if s.ser.count = 0 then k + 3 else b + 2
  | .w4UpdateComplete => b + 2
  | .getRow => 1
  | .waitForRow => 0
  | .sendRow => if s.o.digitIndex = 0#2 ∧ s.o.rowIndex = 7#3 then 2 else 2 * k + 4
  | .rowSent => if s.o.digitIndex = 0#2 ∧ s.o.rowIndex = 7#3 then 1 else 2 * k + 3

/-! ### The order of the bytes -/

/-- The 48 configuration bytes, written out as 41_orchestrator_config.md R119 has them. -/
def configBytes : List Byte :=
  [0x0C#8, 0x00#8, 0x0C#8, 0x00#8, 0x0C#8, 0x00#8, 0x0C#8, 0x00#8] ++
  [0x0F#8, 0x00#8, 0x0F#8, 0x00#8, 0x0F#8, 0x00#8, 0x0F#8, 0x00#8] ++
  [0x0B#8, 0x07#8, 0x0B#8, 0x07#8, 0x0B#8, 0x07#8, 0x0B#8, 0x07#8] ++
  [0x09#8, 0x00#8, 0x09#8, 0x00#8, 0x09#8, 0x00#8, 0x09#8, 0x00#8] ++
  [0x0C#8, 0x01#8, 0x0C#8, 0x01#8, 0x0C#8, 0x01#8, 0x0C#8, 0x01#8] ++
  [0x0A#8, 0x02#8, 0x0A#8, 0x02#8, 0x0A#8, 0x02#8, 0x0A#8, 0x02#8]

/-- How many of the 48 bytes have been transferred, for a state of the configuration sequencer. -/
def configSent (s : State) : Nat :=
  2 * (4 * s.o.step.val + (3 - s.o.digitIndex.toNat)) +
    match s.o.state with
    | .w4RegActive => if s.ser.count = 0 then 0 else 1
    | .w4RegComplete | .sendValue => 1
    | .w4ValueActive => if s.ser.count = 0 then 1 else 2
    | .w4ValueComplete | .configNext => 2
    | _ => 0

/-- After the bytes `base`, the configuration bytes have been transferred in order: as many as the state says while the
configuration lasts, all of them once it is over. In Init none has been, and the counters stand at the start. -/
abbrev ConfigInOrder (base : List Byte) (s : State) : Prop :=
  if s.o.state ∈ configStates then
    s.obs.payloads = base ++ configBytes.take (configSent s) ∧
      (s.o.state = .init → s.o.step = 0 ∧ s.o.digitIndex = Config.LAST)
  else (base ++ configBytes) <+: s.obs.payloads

/-- The bytes of a frame whose bitmaps so far are `bitmaps` (42_orchestrator_render.md R130): each bitmap follows its
row-select byte, 1 four times, then 2 four times, and so on. -/
def frameBytes (bitmaps : List Byte) : List Byte :=
  bitmaps.zipIdx.flatMap fun x => [BitVec.ofNat 8 (x.2 / 4 + 1), x.1]

/-- How many pairs of the frame have been transferred completely, for a state of a frame. -/
def pairsSent (s : State) : Nat :=
  4 * s.o.rowIndex.toNat + (3 - s.o.digitIndex.toNat) + (if s.o.state = .rowSent then 1 else 0)

/-- Whether the row-select byte of the current pair has been transferred and its bitmap has not. -/
def selectSent (s : State) : Bool :=
  match s.o.state with
  | .w4UpdateActive => decide (s.ser.count ≠ 0)
  | .w4UpdateComplete | .getRow | .waitForRow | .sendRow => true
  | _ => false

/-- After the bytes `base`, the frame has transferred the pairs of `bitmaps` and perhaps one row-select byte more. -/
abbrev FrameInOrder (base bitmaps : List Byte) (s : State) : Prop :=
  bitmaps.length = pairsSent s ∧
    s.obs.payloads = base ++ frameBytes bitmaps ++ (if selectSent s then [rowSelectByte s.o.rowIndex] else [])

/-! ### The byte in flight (10_state.md R43 item 2) -/

/-- The first `n` bits of a byte in the order they are sent (20_memory.md R54). -/
def firstBits (b : Byte) (n : Nat) : List Bool := (List.range n).map b.getMsbD

/-- Whether the receiver has not yet read all bits of the byte in the serializer. -/
def inFlight (s : State) : Bool :=
  decide (s.ser.count ≠ 0) &&
    !(decide (s.ser.count = 1) && s.ser.clkPhase && (s.obs.lastSclk == some true))

/-- The bits of that byte the receiver has not read: one on the data line whose rising edge it has not seen yet, and those
still in the shift register. -/
def unreadBits (s : State) : List Bool :=
  (if s.ser.clkPhase && (s.obs.lastSclk == some false) then [s.ser.dataOut] else []) ++
    firstBits s.ser.shiftReg (if s.ser.clkPhase then s.ser.count.val - 1 else s.ser.count.val)

/-- After the bytes `lost` were transferred and the bytes `read` were read off the wire, every byte transferred has been
read, in order, but for the one in flight, whose read and unread bits make up the byte. -/
def WireFollows (lost read : List Byte) (s : State) : Prop :=
  ∃ sent : List Byte,
    s.obs.bytes = read ++ sent ∧
    s.obs.payloads = lost ++ sent ++ (if inFlight s then [byteOfBits (s.obs.bits ++ unreadBits s)] else []) ∧
    (if inFlight s then (s.obs.bits ++ unreadBits s).length = 8 else s.obs.bits = []) ∧
    (s.ser.clkPhase = true → s.obs.lastSclk ≠ none)

/-! ### The wire trace (00_scope.md R14 (b)) -/

/-- What has been read off the wire so far is what the loop of 20_memory.md R59 reads off the wire trace, however the trace
goes on: with no more ticks, the bytes are the trace's byte stream. -/
def DecodesItsTrace (s : State) : Prop :=
  ∀ rest : List WireSample,
    wireDecode (s.obs.trace ++ rest) = s.obs.bytes ++ wireDecodeFrom s.obs.lastSclk s.obs.bits rest

/-! ### Runs -/

/-- A reset instance with `PRESCALER = p` whose coming inputs are `l`. -/
def bootWith (p : Nat) (l : List Inputs) : State := { State.resetWith p with inputs := l }

/-- `en` is 1 in every scheduled tick. -/
abbrev EnableHeld (l : List Inputs) : Prop := ∀ i ∈ l, i.en = true

end Sys2Proof.Machine
end

