-- ==== Sys2Proof/Certificates/Slice0/Obligations.lean ====
section
/-! DEFINITION. The statements about the core, for the provers. A statement about one operation gives the whole next state,
so it is at once the operation's result, its completion and its frame: every register it does not name is unchanged. The
machine has no byte-addressed memory, so a frame has no memory clause. `OrchInRange` and `SerInRange` leave out the counters
above PRESCALER, which CountersOutOfRangeAreRefused is about. -/

open Sys2Proof Sys2Proof.Machine

/-! ### The orchestrator's operations -/

/-- R111: Init, the operation of code 0, in every state with `en = 1` whose counter is in range. -/
def Obligations.InitStartsTheSequence : Prop :=
  decode (.state4 0b0000#4) = .ok .init ∧
  ∀ s : State, s.input.en = true → OrchInRange s →
    exec .init s = .next { s with
      o := { s.o with
        step := 0
        digitIndex := 3#2
        refreshPending := true
        prescaleCounter := s.prescaler
        state := .sendReg } }

/-- 40_composition.md, the three-phase byte push: the nine states that push a byte and wait until it has left the
serializer. `ready` is `ser_ready`. The refresh flag is the refresh latch's (D12 is the spec's own decision, as it is in
every statement of an orchestrator's operation below). -/
def Obligations.ThreePhasePushOfEachTriple : Prop :=
  ∀ s : State, s.input.en = true → OrchInRange s →
    let ready : Prop := s.o.serEnable = true ∧ s.ser.count = 0
    let pending : Bool := s.input.refresh || s.o.refreshPending
    exec .sendReg s = .next { s with
      o := { s.o with
        serEnable := true, outPayload := cfgRead s.o.step .reg, outValid := true, refreshPending := pending
        state := if ready then .w4RegActive else s.o.state } } ∧
    exec .w4RegActive s = .next { s with
      o := { s.o with
        outValid := false, refreshPending := pending
        state := if ready then s.o.state else .w4RegComplete } } ∧
    exec .w4RegComplete s = .next { s with
      o := { s.o with refreshPending := pending, state := if ready then .sendValue else s.o.state } } ∧
    exec .sendValue s = .next { s with
      o := { s.o with
        outPayload := cfgRead s.o.step .val, outValid := true, refreshPending := pending
        state := if ready then .w4ValueActive else s.o.state } } ∧
    exec .w4ValueActive s = .next { s with
      o := { s.o with
        outValid := false, refreshPending := pending
        state := if ready then s.o.state else .w4ValueComplete } } ∧
    exec .w4ValueComplete s = .next { s with
      o := { s.o with refreshPending := pending, state := if ready then .configNext else s.o.state } } ∧
    exec .sendUpdate s = .next { s with
      o := { s.o with
        serEnable := true, outPayload := BitVec.ofNat 8 (s.o.rowIndex.toNat + 1), outValid := true
        refreshPending := pending
        state := if ready then .w4UpdateActive else s.o.state } } ∧
    exec .w4UpdateActive s = .next { s with
      o := { s.o with
        outValid := false, refreshPending := pending
        state := if ready then s.o.state else .w4UpdateComplete } } ∧
    exec .w4UpdateComplete s = .next { s with
      o := { s.o with refreshPending := pending, state := if ready then .getRow else s.o.state } }

/-- 41_orchestrator_config.md, ConfigNext: next module, else next entry, else the end of the configuration, where the step
index stays 5 and the serializer enable is cleared (D27 is the spec's own decision). The three cases exclude each other. -/
def Obligations.ConfigNextAdvancesModuleThenEntry : Prop :=
  ∀ s : State, s.input.en = true → OrchInRange s →
    let pending : Bool := s.input.refresh || s.o.refreshPending
    (∀ d : Nat, s.o.digitIndex.toNat = d + 1 →
      exec .configNext s = .next { s with
        o := { s.o with digitIndex := BitVec.ofNat 2 d, refreshPending := pending, state := .sendReg } }) ∧
    (s.o.digitIndex = 0#2 → ∀ n : Fin 6, n.val = s.o.step.val + 1 →
      exec .configNext s = .next { s with
        o := { s.o with digitIndex := 3#2, step := n, refreshPending := pending, state := .sendReg } }) ∧
    (s.o.digitIndex = 0#2 → s.o.step = 5 →
      exec .configNext s = .next { s with
        o := { s.o with digitIndex := 3#2, serEnable := false, refreshPending := pending, state := .tick } })

/-- 42_orchestrator_render.md, Tick: with a refresh pending it starts a frame on a snapshot of all four digits of this
tick; the flag stays set where `refresh` is 1 in the same tick (D12 is the spec's own decision). Else it waits. -/
def Obligations.TickStartsAFrameOnAPendingRefresh : Prop :=
  ∀ s : State, s.input.en = true → OrchInRange s →
    (s.o.refreshPending = true →
      exec .tick s = .next { s with
        o := { s.o with
          refreshPending := s.input.refresh, digitIndex := 3#2, rowIndex := 0#3, snap := s.input.digits
          state := .sendUpdate } }) ∧
    (s.o.refreshPending = false →
      exec .tick s = .next { s with o := { s.o with refreshPending := s.input.refresh } })

/-- 42_orchestrator_render.md, GetRow: issues the request for the current digit and row with `en = 1`; digits above 9 are
not checked. That `'0'` is 0x30 is the spec's presumption (G1; log 16). -/
def Obligations.GetRowIssuesTheRequest : Prop :=
  ∀ s : State, s.input.en = true → OrchInRange s →
    exec .getRow s = .next { s with
      o := { s.o with
        reqChar := BitVec.ofNat 8 ((digitAt s.o.snap s.o.digitIndex).toNat + 0x30)
        reqRow := BitVec.ofNat 8 s.o.rowIndex.toNat
        reqValid := true
        respReady := true
        refreshPending := s.input.refresh || s.o.refreshPending
        state := .waitForRow } }

/-- 42_orchestrator_render.md, WaitForRow: takes the response of this tick whatever `greq_ready` is, withdraws the request
and the readiness (D14 is the spec's own decision) and offers the bitmap; without a response it waits and writes nothing. -/
def Obligations.WaitForRowTakesTheResponse : Prop :=
  ∀ s : State, s.input.en = true → OrchInRange s →
    (s.input.grespValid = true →
      exec .waitForRow s = .next { s with
        o := { s.o with
          bitmap := s.input.grespBitmap, reqValid := false, respReady := false
          outPayload := s.input.grespBitmap, outValid := true
          refreshPending := s.input.refresh || s.o.refreshPending
          state := .sendRow } }) ∧
    (s.input.grespValid = false →
      exec .waitForRow s = .next { s with
        o := { s.o with refreshPending := s.input.refresh || s.o.refreshPending } })

/-- 42_orchestrator_render.md, SendRow: leaves on the transfer itself, without the completion wait. -/
def Obligations.SendRowLeavesOnTheTransfer : Prop :=
  ∀ s : State, s.input.en = true → OrchInRange s →
    (s.o.serEnable = true → s.ser.count = 0 →
      exec .sendRow s = .next { s with
        o := { s.o with
          outValid := false, refreshPending := s.input.refresh || s.o.refreshPending, state := .rowSent } }) ∧
    (s.o.serEnable = false ∨ s.ser.count ≠ 0 →
      exec .sendRow s = .next { s with
        o := { s.o with refreshPending := s.input.refresh || s.o.refreshPending } })

/-- 42_orchestrator_render.md, RowSent: next module, else next row, else the end of the frame, where both indices stay (D27
is the spec's own decision). The three cases exclude each other. -/
def Obligations.RowSentAdvancesModuleThenRow : Prop :=
  ∀ s : State, s.input.en = true → OrchInRange s →
    let pending : Bool := s.input.refresh || s.o.refreshPending
    (∀ d : Nat, s.o.digitIndex.toNat = d + 1 →
      exec .rowSent s = .next { s with
        o := { s.o with digitIndex := BitVec.ofNat 2 d, refreshPending := pending, state := .sendUpdate } }) ∧
    (s.o.digitIndex = 0#2 → s.o.rowIndex.toNat < 7 →
      exec .rowSent s = .next { s with
        o := { s.o with
          rowIndex := BitVec.ofNat 3 (s.o.rowIndex.toNat + 1), digitIndex := 3#2
          refreshPending := pending, state := .sendUpdate } }) ∧
    (s.o.digitIndex = 0#2 → s.o.rowIndex = 7#3 →
      exec .rowSent s = .next { s with o := { s.o with refreshPending := pending, state := .tick } })

/-- 60_exceptions.md, priority: with `en = 0` every operation of the orchestrator leaves its registers at their reset values
(those the spec lists under D10 are its own decisions), whatever its rule and the other inputs are. -/
def Obligations.EnableLowOverridesEveryStateRule : Prop :=
  ∀ (i : Instr) (s : State), i ∈ orchestratorOps → s.input.en = false →
    exec i s = .next { s with
      o := {
        state := .init, step := 0, digitIndex := 3#2, rowIndex := 0#3, refreshPending := true
        prescaleCounter := s.prescaler, serEnable := false, outValid := false, outPayload := 0#8, reqValid := false
        reqChar := 0#8, reqRow := 0#8, respReady := false, bitmap := 0#8, snap := ⟨0#4, 0#4, 0#4, 0#4⟩ } }

/-! ### The serializer's operations -/

/-- R76: exactly the operation whose pattern the five Booleans of the tick match is selected. -/
def Obligations.SerializerOperationFollowsThePattern : Prop :=
  ∀ s : State,
    let z : Bool := decide (s.ser.count = 0)
    let v : Bool := s.o.outValid
    let p : Bool := decide (s.ser.prescaleCounter = 0)
    let c : Bool := s.ser.clkPhase
    let e : Prop := s.input.en = true ∧ s.o.serEnable = true
    (¬ e → s.serOp = .serDisabled z v p c) ∧
    (e → s.ser.count = 0 → s.o.outValid = false → s.serOp = .serIdle p c) ∧
    (e → s.ser.count = 0 → s.o.outValid = true → s.serOp = .serAccept p c) ∧
    (e → s.ser.count ≠ 0 → s.ser.prescaleCounter ≠ 0 → s.serOp = .serWait v c) ∧
    (e → s.ser.count ≠ 0 → s.ser.prescaleCounter = 0 → s.ser.clkPhase = false → s.serOp = .serRise v) ∧
    (e → s.ser.count ≠ 0 → s.ser.prescaleCounter = 0 → s.ser.clkPhase = true → s.serOp = .serFall v)

/-- 43_serializer.md: SER.DISABLED resets the five registers (the shift register by D26, the spec's own decision), with
`en = 0` whatever the counter is; SER.IDLE writes nothing, SER.ACCEPT latches the offered byte and touches neither line nor
divider. -/
def Obligations.SerializerDisablesHoldsOrLoads : Prop :=
  ∀ (s : State) (z v p c : Bool),
    (s.input.en = false ∨ SerInRange s →
      exec (.serDisabled z v p c) s = .next { s with
        ser := { count := 0, shiftReg := 0#8, clkPhase := false, prescaleCounter := s.prescaler, dataOut := false } }) ∧
    (SerInRange s →
      exec (.serIdle p c) s = .next s ∧
      exec (.serAccept p c) s = .next { s with ser := { s.ser with shiftReg := s.o.outPayload, count := 8 } })

/-- 43_serializer.md: with the counter in its range SER.WAIT counts the divider down by one (D21 is the spec's own
decision). -/
def Obligations.SerializerWaitCountsTheDividerDown : Prop :=
  ∀ (s : State) (v c : Bool) (n : Nat), s.ser.prescaleCounter = n + 1 → n + 1 ≤ s.prescaler →
    exec (.serWait v c) s = .next { s with ser := { s.ser with prescaleCounter := n } }

/-- 30_encoding.md section 6 and U6: with the counter above PRESCALER SER.WAIT is refused by name (log 11). -/
def Obligations.SerializerWaitRefusesACounterOutOfRange : Prop :=
  ∀ (s : State) (v c : Bool), s.prescaler < s.ser.prescaleCounter →
    exec (.serWait v c) s = .refused .prescaleCounterOutOfRange

/-- 30_encoding.md, reserved and illegal encodings, and 93_implementation_defined.md U6: every state code selects an operation of
the orchestrator and every condition vector one of the serializer, there is none beside them; and with `en = 1` a counter above
PRESCALER is refused by every operation of its component, and so by the step (log 11). With `en = 0` it is reset, as
OneTickOfEnableLowResetsEveryRegister says. -/
def Obligations.CountersOutOfRangeAreRefused : Prop :=
  (∀ w : BitVec 4, ∃ i ∈ orchestratorOps, decode (.state4 w) = .ok i) ∧
  (∀ w : BitVec 5, ∃ k : SerCond, k.bits = w ∧ decode (.serCond w) = .ok k.op) ∧
  (∀ (i : Instr) (s : State), i ∈ orchestratorOps → s.input.en = true → ¬ OrchInRange s →
    exec i s = .refused .prescaleCounterOutOfRange) ∧
  (∀ (k : SerCond) (s : State), s.input.en = true → ¬ SerInRange s →
    exec k.op s = .refused .prescaleCounterOutOfRange) ∧
  (∀ s : State, s.input.en = true → ¬ OrchInRange s ∨ ¬ SerInRange s →
    step s = .refused .prescaleCounterOutOfRange)

/-- 43_serializer.md: SER.RISE raises the clock and puts bit 7 of the shift register on the data line, SER.FALL lowers the
clock and ends the bit (C2 and D4 are the spec's own resolution). Both reload the divider. -/
def Obligations.SerializerRisesAndFalls : Prop :=
  ∀ (s : State) (v : Bool), SerInRange s →
    exec (.serRise v) s = .next { s with
      ser := { s.ser with
        prescaleCounter := s.prescaler, clkPhase := true, dataOut := decide (128 ≤ s.ser.shiftReg.toNat)
        shiftReg := BitVec.ofNat 8 (2 * s.ser.shiftReg.toNat) } } ∧
    ∀ n : Fin 9, s.ser.count.val = n.val + 1 →
      exec (.serFall v) s = .next { s with
        ser := { s.ser with prescaleCounter := s.prescaler, clkPhase := false, count := n } }

/-! ### Words on the wire -/

/-- The model's meaning of the table's wire words (log 8): the word has been sent. -/
def Obligations.WireWordsAreRecordedAsSent : Prop :=
  ∀ (s : State) (sel : BitVec 4) (bitmap : Byte),
    let sent (w : WireWord) : State := { s with obs := { s.obs with words := s.obs.words ++ [w] } }
    exec .cfgWord0 s = .next (sent 0x0C00#16) ∧ exec .cfgWord1 s = .next (sent 0x0F00#16) ∧
    exec .cfgWord2 s = .next (sent 0x0B07#16) ∧ exec .cfgWord3 s = .next (sent 0x0900#16) ∧
    exec .cfgWord4 s = .next (sent 0x0C01#16) ∧ exec .cfgWord5 s = .next (sent 0x0A02#16) ∧
    exec (.rowWord sel bitmap) s = .next (sent (BitVec.ofNat 16 (256 * sel.toNat + bitmap.toNat)))

/-- The word that the receiver completes in this tick is recorded, and no other: first byte high, and whether or not the table
has the word. Two bytes with `cs` low between them make no word. The record and this pairing are the model's choice (log 4,
DESIGN CHOICE and DEDUCED), as is recording a word of no format (log 8, DESIGN CHOICE); that consecutive bytes form words is
20_memory.md, the downstream register space. -/
def Obligations.EveryCompletedWordIsRecorded : Prop :=
  ∀ s t : State, step s = .next t →
    t.obs.words = s.obs.words ++ (s.obs.wordDone s.wire).toList

/-! ### Encoding -/

/-- Words written out from the spec's encodings decode to the operations they stand for. -/
def Obligations.WrittenOutWordsDecodeRight : Prop :=
  decode (.state4 0b0111#4) = .ok .configNext ∧
  decode (.state4 0b1101#4) = .ok .waitForRow ∧
  decode (.serCond 0b10010#5) = .ok (.serRise false) ∧
  decode (.serCond 0b01101#5) = .ok (.serDisabled true true false true) ∧
  decode (.wire16 0b0000101100000111#16) = .ok .cfgWord2 ∧
  decode (.wire16 0b0000100001111110#16) = .ok (.rowWord 8#4 0x7E#8) ∧
  decode (.wire16 0b0001000000000000#16) = .error (.noWireFormat 0x1000#16)

/-- Decoding the encoding of any well-formed instruction gives it back. -/
def Obligations.DecodeOfEncodeIsTheInstruction : Prop :=
  ∀ i : Instr, i.WellFormed → decode (encode i) = .ok i

/-- Each code word has one meaning: what decodes to a well-formed instruction is that instruction's encoding. -/
def Obligations.EncodeOfDecodeIsTheWord : Prop :=
  ∀ (w : CodeWord) (i : Instr), decode w = .ok i → i.WellFormed → encode i = w

/-! ### The step -/

/-- 40_composition.md, one tick of the core: a step runs the operation that `O.state` encodes and the one the condition vector
encodes, both on the old state, and commits the orchestrator's registers from the first and the serializer's from the second.
The other clauses are the model's choice (DESIGN CHOICE): operations as instructions whose results are committed (log 1), the
coming inputs and the tick number in the state (log 2), the transfer and the wire sample observed (log 4), the completed wire
word run as an operation (log 8). -/
def Obligations.StepRunsTheDecodedOperations : Prop :=
  ∀ (s a b : State) (i j : Instr),
    decode (.state4 s.o.state.code) = .ok i → decode (.serCond s.serCond.bits) = .ok j →
    exec i s = .next a → exec j s = .next b →
    ∃ t, step s = .next t ∧ t.o = a.o ∧ t.ser = b.ser ∧ t.prescaler = s.prescaler ∧ t.tick = s.tick + 1 ∧
      t.inputs = s.inputs.tail ∧
      { t.obs with words := s.obs.words } =
        { s.obs.sample s.wire with
          payloads := s.obs.payloads ++ (if s.o.outValid ∧ s.serReady then [s.o.outPayload] else []) } ∧
      (∀ w k c, s.obs.wordDone s.wire = some w → decode (.wire16 w) = .ok k → exec k s = .next c →
        t.obs.words = c.obs.words) ∧
      (s.obs.wordDone s.wire = none → t.obs.words = s.obs.words)

/-- R147: no step faults, and a step of a state whose counters are in range, or with `en = 0`, answers a next state, whatever the
inputs. -/
def Obligations.StepNeverFaultsAndAlwaysGoesOn : Prop :=
  (∀ (s : State) (f : Fault), step s ≠ .fault f) ∧
  ∀ s : State, (s.input.en = true → OrchInRange s ∧ SerInRange s) → ∃ t, step s = .next t

/-- R104: the successor table, and nothing else, gives the next state tag; with `en = 0` it is Init. -/
def Obligations.NextTagFollowsTheSuccessorTable : Prop :=
  ∀ s t : State, step s = .next t →
    (s.input.en = true → t.o.state = successor s) ∧ (s.input.en = false → t.o.state = .init)

/-- 60_exceptions.md, reset entry: one tick with `en = 0` puts all 20 registers at their reset values (the table of
10_state.md section 5; D9, D10, D26 are the spec's own decisions) from every state. -/
def Obligations.OneTickOfEnableLowResetsEveryRegister : Prop :=
  ∀ s : State, s.input.en = false →
    ∃ t, step s = .next t ∧
      t.o = {
        state := .init, step := 0, digitIndex := 3#2, rowIndex := 0#3, refreshPending := true
        prescaleCounter := s.prescaler, serEnable := false, outValid := false, outPayload := 0#8, reqValid := false
        reqChar := 0#8, reqRow := 0#8, respReady := false, bitmap := 0#8, snap := ⟨0#4, 0#4, 0#4, 0#4⟩ } ∧
      t.ser = { count := 0, shiftReg := 0#8, clkPhase := false, prescaleCounter := s.prescaler, dataOut := false }

/-- 60_exceptions.md, return and nesting: a second tick with `en = 0` changes no register, and after any number of them a
tick with `en = 1` leaves Init for SendReg with nothing but the tag changed. -/
def Obligations.DisablingTwiceIsDisablingOnce : Prop :=
  ∀ s t : State, s.input.en = false → step s = .next t →
    ∃ u, step t = .next u ∧ u.ser = t.ser ∧
      (t.input.en = false → u.o = t.o) ∧ (t.input.en = true → u.o = { t.o with state := .sendReg })

/-- 40_composition.md, the output function and the serializer enable: in every tick, of every state and whatever the inputs,
each output is the current value of its register, `cs` is `en` and `O.serEnable`, and `ser_ready` and the transfer are as the
wires give them (D1 is the spec's own decision). -/
def Obligations.OutputsAreCurrentRegisters : Prop :=
  ∀ s : State,
    s.outputs = {
      greqValid := s.o.reqValid, greqChar := s.o.reqChar, greqRow := s.o.reqRow, grespReady := s.o.respReady
      sclk := s.ser.clkPhase, mosi := s.ser.dataOut, cs := s.input.en && s.o.serEnable } ∧
    s.serEn = (s.input.en && s.o.serEnable) ∧
    s.serReady = (s.input.en && s.o.serEnable && decide (s.ser.count = 0)) ∧
    s.xfer = (s.o.outValid && s.input.en && s.o.serEnable && decide (s.ser.count = 0))

/-- 70_reset_and_hazards.md, ports around a reset, and 20_memory.md, the partial byte: in the tick `en` is 0 `cs` and `ser_ready`
are low and every other output still shows its old register; in the next tick all outputs are 0, and the receiver has discarded the
partial byte, read no new one, and expects the first byte of a word (this last is the model's choice, log 4). -/
def Obligations.PortsAndWireAroundAReset : Prop :=
  ∀ s t : State, s.input.en = false → step s = .next t →
    s.outputs.cs = false ∧ s.serReady = false ∧ s.outputs.sclk = s.ser.clkPhase ∧ s.outputs.mosi = s.ser.dataOut ∧
    s.outputs.greqValid = s.o.reqValid ∧ s.outputs.greqChar = s.o.reqChar ∧ s.outputs.greqRow = s.o.reqRow ∧
    s.outputs.grespReady = s.o.respReady ∧
    t.outputs.cs = false ∧ t.outputs.sclk = false ∧ t.outputs.mosi = false ∧ t.outputs.greqValid = false ∧
    t.outputs.greqChar = 0#8 ∧ t.outputs.greqRow = 0#8 ∧ t.outputs.grespReady = false ∧
    t.obs.bits = [] ∧ t.obs.bytes = s.obs.bytes ∧ t.obs.half = none ∧ t.obs.payloads = s.obs.payloads

/-- 60_exceptions.md, the refresh latch (D12 is the spec's own decision): in every tick with `en = 1` the flag is set by
`refresh` and by Init, cleared by Tick alone, and a set wins over the clear. -/
def Obligations.RefreshFlagIsLatchedAndSetWins : Prop :=
  ∀ s t : State, s.input.en = true → step s = .next t →
    (t.o.refreshPending = true ↔
      s.input.refresh = true ∨ s.o.state = .init ∨ (s.o.refreshPending = true ∧ s.o.state ≠ .tick))

/-- 10_state.md, the writers of each register: with `en = 1` a register of the orchestrator changes only in a tick of an
operation the spec lists as its writer. -/
def Obligations.EachOrchestratorRegisterHasItsWriters : Prop :=
  ∀ s t : State, s.input.en = true → step s = .next t →
    (t.o.step ≠ s.o.step → s.o.state ∈ [StateTag.init, .configNext]) ∧
    (t.o.digitIndex ≠ s.o.digitIndex → s.o.state ∈ [StateTag.init, .configNext, .tick, .rowSent]) ∧
    (t.o.rowIndex ≠ s.o.rowIndex → s.o.state ∈ [StateTag.tick, .rowSent]) ∧
    (t.o.prescaleCounter ≠ s.o.prescaleCounter → s.o.state = .init) ∧
    (t.o.serEnable = true → s.o.serEnable = false → s.o.state ∈ [StateTag.sendReg, .sendUpdate]) ∧
    (t.o.serEnable = false → s.o.serEnable = true →
      s.o.state = .configNext ∧ s.o.digitIndex = 0#2 ∧ s.o.step = 5) ∧
    (t.o.outValid = true → s.o.outValid = false →
      s.o.state ∈ [StateTag.sendReg, .sendValue, .sendUpdate, .waitForRow]) ∧
    (t.o.outValid = false → s.o.outValid = true →
      s.o.state ∈ [StateTag.w4RegActive, .w4ValueActive, .w4UpdateActive, .sendRow]) ∧
    (t.o.outPayload ≠ s.o.outPayload →
      s.o.state ∈ [StateTag.sendReg, .sendValue, .sendUpdate, .waitForRow]) ∧
    (t.o.reqValid ≠ s.o.reqValid ∨ t.o.respReady ≠ s.o.respReady → s.o.state ∈ [StateTag.getRow, .waitForRow]) ∧
    (t.o.reqChar ≠ s.o.reqChar ∨ t.o.reqRow ≠ s.o.reqRow → s.o.state = .getRow) ∧
    (t.o.bitmap ≠ s.o.bitmap → s.o.state = .waitForRow ∧ s.input.grespValid = true) ∧
    (t.o.snap ≠ s.o.snap → s.o.state = .tick ∧ s.o.refreshPending = true)

/-- R143: the serializer accepts a byte only when it is idle and enabled, and then takes the offered one and observes one
transfer; its count goes down by at most 1 in a tick and not at all in an idle one; a byte offered while it shifts or is
disabled is neither taken nor observed as a transfer, and the producer sees `ser_ready = 0`. SER.ACCEPT is the only operation
that loads from `out_payload`: what any other does to the serializer is the same whatever byte is on offer. -/
def Obligations.HandshakeIsSafe : Prop :=
  (∀ (s t u : State) (k : SerCond) (b : Byte), ¬ (k.e = true ∧ k.z = true ∧ k.v = true) → exec k.op s = .next t →
    exec k.op { s with o := { s.o with outPayload := b } } = .next u → u.ser = t.ser) ∧
  ∀ s t : State, step s = .next t →
    (s.serEn = true → s.ser.count = 0 → s.o.outValid = true →
      s.serReady = true ∧ t.ser.count = 8 ∧ t.ser.shiftReg = s.o.outPayload ∧
      t.obs.payloads = s.obs.payloads ++ [s.o.outPayload]) ∧
    (s.serEn = true → s.ser.count = 0 → s.o.outValid = false →
      s.serReady = true ∧ t.ser = s.ser ∧ t.obs.payloads = s.obs.payloads) ∧
    (s.serEn = true → s.ser.count ≠ 0 →
      s.serReady = false ∧ (t.ser.count = s.ser.count ∨ t.ser.count.val + 1 = s.ser.count.val) ∧
      (t.ser.shiftReg = s.ser.shiftReg ∨ t.ser.shiftReg = BitVec.ofNat 8 (2 * s.ser.shiftReg.toNat)) ∧
      t.obs.payloads = s.obs.payloads) ∧
    (s.serEn = false → s.serReady = false ∧ t.ser.count = 0 ∧ t.obs.payloads = s.obs.payloads)

/-- 20_memory.md, producer discipline: a byte offered and not transferred keeps its payload, and stays offered unless its
transfer was in the tick before (an Active state that finds the serializer shifting). -/
def Obligations.OfferedByteIsHeldUntilTransferred : Prop :=
  ∀ s t : State, RunInv s → s.input.en = true → s.o.outValid = true → s.xfer = false → step s = .next t →
    t.o.outPayload = s.o.outPayload ∧
    (t.o.outValid = true ∨
      (s.o.state ∈ [StateTag.w4RegActive, .w4ValueActive, .w4UpdateActive] ∧ s.ser.count ≠ 0))

/-- 70_reset_and_hazards.md, data and clock change together; 43_serializer.md, the first bit: while the serializer is
enabled the data line changes only with a rising clock edge, to the top bit of the shift register. -/
def Obligations.DataChangesOnlyWithARisingEdge : Prop :=
  ∀ s t : State, s.input.en = true → s.o.serEnable = true → step s = .next t →
    t.outputs.mosi ≠ s.outputs.mosi →
      s.outputs.sclk = false ∧ t.outputs.sclk = true ∧ s.ser.count ≠ 0 ∧
      t.outputs.mosi = decide (128 ≤ s.ser.shiftReg.toNat)

/-- 60_exceptions.md, permanent stall: WaitForRow without a response and Tick without a pending refresh keep every register
of the orchestrator but the refresh flag, which `refresh` can still set, and therefore every output of its streams. -/
def Obligations.AStallKeepsEveryRegister : Prop :=
  ∀ s t : State, s.input.en = true → step s = .next t →
    (s.o.state = .waitForRow ∧ s.input.grespValid = false) ∨ (s.o.state = .tick ∧ s.o.refreshPending = false) →
      t.o = { s.o with refreshPending := s.input.refresh || s.o.refreshPending }

/-! ### What a component cannot see -/

/-- R97: the orchestrator reads `ser_ready` and nothing else from the serializer; the serializer reads `ser_en`, `out_valid`
and `out_payload` and nothing else from the orchestrator; no register is written by more than one of the two. -/
def Obligations.ComponentsSeeOnlyTheirWires : Prop :=
  (∀ (i : Instr) (s t : State), i ∈ orchestratorOps → exec i s = .next t → t = { s with o := t.o }) ∧
  (∀ (k : SerCond) (s t : State), exec k.op s = .next t → t = { s with ser := t.ser }) ∧
  (∀ s u s' u' : State, s.prescaler = u.prescaler → s.o = u.o → s.input = u.input → s.serReady = u.serReady →
    step s = .next s' → step u = .next u' → s'.o = u'.o) ∧
  (∀ s u s' u' : State, s.prescaler = u.prescaler → s.ser = u.ser → s.serEn = u.serEn → s.o.outValid = u.o.outValid →
    s.o.outPayload = u.o.outPayload → step s = .next s' → step u = .next u' → s'.ser = u'.ser)

/-- R102: the digits are sampled only in the tick Tick starts a frame; in every other tick their values are ignored. -/
def Obligations.DigitsAreSampledOnlyWhenAFrameStarts : Prop :=
  (∀ s t : State, s.input.en = true → s.o.state = .tick → s.o.refreshPending = true → step s = .next t →
    t.o.snap = s.input.digits) ∧
  (∀ (s : State) (i : Inputs) (l : List Inputs) (d : Digits), s.inputs = i :: l →
    ¬ (i.en = true ∧ s.o.state = .tick ∧ s.o.refreshPending = true) →
    step { s with inputs := { i with digits := d } :: l } = step s)

/-- 40_composition.md, glyph ports, and 60_exceptions.md, protocol violations: `greq_ready` is never looked at, and a glyph
response counts only in WaitForRow (D15 is the spec's own decision). -/
def Obligations.GlyphInputsCountOnlyInWaitForRow : Prop :=
  ∀ (s : State) (i : Inputs) (l : List Inputs) (r v : Bool) (b : Byte), s.inputs = i :: l →
    step { s with inputs := { i with greqReady := r } :: l } = step s ∧
    (s.o.state ≠ .waitForRow →
      step { s with inputs := { i with grespValid := v, grespBitmap := b } :: l } = step s) ∧
    (i.grespValid = false → step { s with inputs := { i with grespBitmap := b } :: l } = step s)

/-! ### Timing -/

/-- 43_serializer.md, the timing law: from the accept the byte takes exactly `16(p + 1)` shifting ticks, one fewer to go after
each, and the serializer is idle exactly when none is left. -/
def Obligations.AByteTakesSixteenHalfPeriods : Prop :=
  ∀ s t : State, Inv s → s.input.en = true → s.o.serEnable = true → step s = .next t →
    (s.o.outValid = true → s.ser.count = 0 → busyTicks t = 16 * (s.prescaler + 1)) ∧
    (s.ser.count ≠ 0 → busyTicks t + 1 = busyTicks s) ∧
    (busyTicks s = 0 ↔ s.ser.count = 0)

/-- 60_exceptions.md, the waits: with `en = 1` every state but Tick and WaitForRow is on its way to one of these two, the
number of ticks it takes goes down by one in every tick, and it is 0 only there. The tick numbers of the configuration and
of a frame (41_orchestrator_config.md, 42_orchestrator_render.md, the timing laws) are sums of this count. -/
def Obligations.EveryTickIsOneTickNearerToRest : Prop :=
  ∀ s t : State, RunInv s → s.input.en = true → step s = .next t →
    (s.o.state ≠ .tick → s.o.state ≠ .waitForRow → ticksToRest t + 1 = ticksToRest s) ∧
    (ticksToRest s = 0 ↔ s.o.state = .tick ∨ s.o.state = .waitForRow)

/-! ### Invariants -/

/-- 10_state.md, the invariants of reachable states, and those a run adds, hold in the reset state of every instance, whose wire
trace is empty. -/
def Obligations.ResetMeetsTheInvariants : Prop :=
  RunInv State.reset ∧ WireFollows [] [] State.reset ∧ ConfigInOrder [] State.reset ∧ DecodesItsTrace State.reset ∧
  ∀ (p : Nat) (l : List Inputs),
    RunInv (bootWith p l) ∧ WireFollows [] [] (bootWith p l) ∧ ConfigInOrder [] (bootWith p l) ∧
    DecodesItsTrace (bootWith p l) ∧ (bootWith p l).obs.trace = [] ∧
    ticksToRest (bootWith p l) = 169 + 48 * byteTicks p

/-- 10_state.md, the invariants of reachable states: every step keeps them, from every state, under any input, and the first
ticks that two of them speak of are first ticks. -/
def Obligations.EveryStepKeepsTheInvariants : Prop :=
  ∀ s t : State, Inv s → step s = .next t → Inv t ∧ FirstTicksOnly s t

/-- The invariants of a run, which add what the state rules say of the serializer and of the byte and request on offer:
every step keeps them, from every state, under any input. -/
def Obligations.EveryStepKeepsTheRunInvariants : Prop :=
  ∀ s t : State, RunInv s → step s = .next t → RunInv t

/-- 20_memory.md, the byte stream of a wire trace: while `en` is held 1, the bytes read off `cs`, `sclk` and `mosi` are the
bytes transferred, in order, but for the one in flight. -/
def Obligations.BytesOnTheWireAreTheBytesTransferred : Prop :=
  ∀ (s t : State) (lost read : List Byte), RunInv s → WireFollows lost read s → s.input.en = true → step s = .next t →
    WireFollows lost read t

/-- 00_scope.md, a run, and 20_memory.md, the byte stream of a wire trace: every step, from every state and under any input, adds
its sample of the three lines to the wire trace, and the bytes read so far stay the trace's byte stream, also across resets. -/
def Obligations.BytesReadAreTheTraceDecoded : Prop :=
  ∀ s t : State, DecodesItsTrace s → step s = .next t →
    t.obs.trace = s.obs.trace ++ [⟨s.input.en && s.o.serEnable, s.ser.clkPhase, s.ser.dataOut⟩] ∧
    t.obs.bytes = wireDecode t.obs.trace ∧ DecodesItsTrace t

/-- 41_orchestrator_config.md, the configuration sequence law: while `en` is held 1, the transfers are the 48 configuration
bytes in their order, and no other byte comes before they are all sent. -/
def Obligations.ConfigurationBytesAreSentInOrder : Prop :=
  ∀ (s t : State) (base : List Byte), RunInv s → ConfigInOrder base s → s.input.en = true → step s = .next t →
    ConfigInOrder base t

/-- 42_orchestrator_render.md, the frame law: Tick starts a frame with no pair sent; every tick of a frame keeps the order,
the bitmap taken from the renderer following its row-select byte in SendRow; a frame that ends has sent 32 pairs. -/
def Obligations.FrameBytesAreSentInOrder : Prop :=
  ∀ s t : State, RunInv s → s.input.en = true → step s = .next t →
    (s.o.state = .tick → t.o.state = .sendUpdate → FrameInOrder s.obs.payloads [] t) ∧
    ∀ base bitmaps : List Byte, s.o.state ∈ frameStates → FrameInOrder base bitmaps s →
      let bitmaps' := if s.o.state = .sendRow then bitmaps ++ [s.o.bitmap] else bitmaps
      (t.o.state ∈ frameStates → FrameInOrder base bitmaps' t) ∧
      (t.o.state = .tick → bitmaps'.length = 32 ∧ t.obs.payloads = base ++ frameBytes bitmaps') ∧
      (t.o.state ∈ frameStates ∨ t.o.state = .tick)

/-! ### Runs -/

/-- 41_orchestrator_config.md, the sequence and timing laws, and 60_exceptions.md, the liveness law: an instance with any
PRESCALER, booted with `en` held 1 and any other inputs, is in Tick in tick `169 + 48K` and in no tick before, and by then has
transferred, and put on the wire, exactly the 48 configuration bytes. The tick number rests on D1 and D4, and the launch state
on premise BOOT (log 5). -/
def Obligations.BootSendsTheConfigurationOnTime : Prop :=
  ∀ (p : Nat) (l : List Inputs), EnableHeld l → l.length = 169 + 48 * byteTicks p →
    (∃ t, Host.Core.run Sys2Proof.core l.length (bootWith p l) = .next t ∧
      t.o.state = .tick ∧ t.tick = 169 + 48 * byteTicks p ∧
      t.obs.payloads = configBytes ∧ wireDecode t.obs.trace = configBytes) ∧
    ∀ k : Nat, k < l.length →
      ∃ u, Host.Core.run Sys2Proof.core k (bootWith p l) = .next u ∧ u.tick = k ∧ u.o.state ≠ .tick

/-- 41_orchestrator_config.md, the sequence law, and 20_memory.md, the byte stream of a wire trace: however long a run with
`en` held 1 is, and whatever PRESCALER and the other inputs are, it has one wire sample for every tick, its first 48 transfers
are the configuration bytes, the bytes decoded from its wire trace are the first ones of those transferred, and they are all of
them whenever the serializer is idle. The launch state is premise BOOT (log 5). -/
def Obligations.EveryRunBeginsWithTheConfiguration : Prop :=
  ∀ (p : Nat) (l : List Inputs), EnableHeld l →
    ∃ t, Host.Core.run Sys2Proof.core l.length (bootWith p l) = .next t ∧
      t.obs.trace.length = l.length ∧
      t.obs.payloads.take 48 = configBytes.take t.obs.payloads.length ∧
      wireDecode t.obs.trace <+: t.obs.payloads ∧
      (t.ser.count = 0 → wireDecode t.obs.trace = t.obs.payloads)
end

