-- ==== Sys2Proof/Laws/State.lean ====
section
/-! SUPPORT. What each named update leaves in each field: one lemma per field per update, all by rfl, so that later proofs
need not unfold a record update. -/

namespace Sys2Proof.Machine

/-! ### commit -/

@[simp] theorem commit_prescaler (s a b c : State) : (commit s a b c).prescaler = s.prescaler := rfl
@[simp] theorem commit_o (s a b c : State) : (commit s a b c).o = a.o := rfl
@[simp] theorem commit_ser (s a b c : State) : (commit s a b c).ser = b.ser := rfl
@[simp] theorem commit_payloads (s a b c : State) :
    (commit s a b c).obs.payloads = s.obs.payloads ++ (if s.xfer then [s.o.outPayload] else []) := rfl
@[simp] theorem commit_trace (s a b c : State) : (commit s a b c).obs.trace = s.obs.trace ++ [s.wire] := rfl
@[simp] theorem commit_lastSclk (s a b c : State) :
    (commit s a b c).obs.lastSclk = (s.obs.sample s.wire).lastSclk := rfl
@[simp] theorem commit_bits (s a b c : State) : (commit s a b c).obs.bits = (s.obs.sample s.wire).bits := rfl
@[simp] theorem commit_bytes (s a b c : State) : (commit s a b c).obs.bytes = (s.obs.sample s.wire).bytes := rfl
@[simp] theorem commit_half (s a b c : State) : (commit s a b c).obs.half = (s.obs.sample s.wire).half := rfl
@[simp] theorem commit_words (s a b c : State) : (commit s a b c).obs.words = c.obs.words := rfl
@[simp] theorem commit_inputs (s a b c : State) : (commit s a b c).inputs = s.inputs.tail := rfl
@[simp] theorem commit_tick (s a b c : State) : (commit s a b c).tick = s.tick + 1 := rfl

/-! ### recordWord -/

@[simp] theorem recordWord_prescaler (w : WireWord) (s : State) : (s.recordWord w).prescaler = s.prescaler := rfl
@[simp] theorem recordWord_o (w : WireWord) (s : State) : (s.recordWord w).o = s.o := rfl
@[simp] theorem recordWord_ser (w : WireWord) (s : State) : (s.recordWord w).ser = s.ser := rfl
@[simp] theorem recordWord_words (w : WireWord) (s : State) :
    (s.recordWord w).obs.words = s.obs.words ++ [w] := rfl
@[simp] theorem recordWord_payloads (w : WireWord) (s : State) :
    (s.recordWord w).obs.payloads = s.obs.payloads := rfl
@[simp] theorem recordWord_trace (w : WireWord) (s : State) : (s.recordWord w).obs.trace = s.obs.trace := rfl
@[simp] theorem recordWord_lastSclk (w : WireWord) (s : State) :
    (s.recordWord w).obs.lastSclk = s.obs.lastSclk := rfl
@[simp] theorem recordWord_bits (w : WireWord) (s : State) : (s.recordWord w).obs.bits = s.obs.bits := rfl
@[simp] theorem recordWord_bytes (w : WireWord) (s : State) : (s.recordWord w).obs.bytes = s.obs.bytes := rfl
@[simp] theorem recordWord_half (w : WireWord) (s : State) : (s.recordWord w).obs.half = s.obs.half := rfl
@[simp] theorem recordWord_inputs (w : WireWord) (s : State) : (s.recordWord w).inputs = s.inputs := rfl
@[simp] theorem recordWord_tick (w : WireWord) (s : State) : (s.recordWord w).tick = s.tick := rfl

/-! ### refreshLatch -/

@[simp] theorem refreshLatch_refreshPending (r : Bool) (o : Orchestrator) :
    (refreshLatch r o).refreshPending = (r || o.refreshPending) := rfl
@[simp] theorem refreshLatch_state (r : Bool) (o : Orchestrator) : (refreshLatch r o).state = o.state := rfl
@[simp] theorem refreshLatch_step (r : Bool) (o : Orchestrator) : (refreshLatch r o).step = o.step := rfl
@[simp] theorem refreshLatch_digitIndex (r : Bool) (o : Orchestrator) :
    (refreshLatch r o).digitIndex = o.digitIndex := rfl
@[simp] theorem refreshLatch_rowIndex (r : Bool) (o : Orchestrator) :
    (refreshLatch r o).rowIndex = o.rowIndex := rfl
@[simp] theorem refreshLatch_prescaleCounter (r : Bool) (o : Orchestrator) :
    (refreshLatch r o).prescaleCounter = o.prescaleCounter := rfl
@[simp] theorem refreshLatch_serEnable (r : Bool) (o : Orchestrator) :
    (refreshLatch r o).serEnable = o.serEnable := rfl
@[simp] theorem refreshLatch_outValid (r : Bool) (o : Orchestrator) :
    (refreshLatch r o).outValid = o.outValid := rfl
@[simp] theorem refreshLatch_outPayload (r : Bool) (o : Orchestrator) :
    (refreshLatch r o).outPayload = o.outPayload := rfl
@[simp] theorem refreshLatch_reqValid (r : Bool) (o : Orchestrator) :
    (refreshLatch r o).reqValid = o.reqValid := rfl
@[simp] theorem refreshLatch_reqChar (r : Bool) (o : Orchestrator) :
    (refreshLatch r o).reqChar = o.reqChar := rfl
@[simp] theorem refreshLatch_reqRow (r : Bool) (o : Orchestrator) : (refreshLatch r o).reqRow = o.reqRow := rfl
@[simp] theorem refreshLatch_respReady (r : Bool) (o : Orchestrator) :
    (refreshLatch r o).respReady = o.respReady := rfl
@[simp] theorem refreshLatch_bitmap (r : Bool) (o : Orchestrator) : (refreshLatch r o).bitmap = o.bitmap := rfl
@[simp] theorem refreshLatch_snap (r : Bool) (o : Orchestrator) : (refreshLatch r o).snap = o.snap := rfl

/-! ### reset -/

@[simp] theorem resetWith_prescaler (p : Nat) : (State.resetWith p).prescaler = p := rfl
@[simp] theorem resetWith_o (p : Nat) : (State.resetWith p).o = resetOrchestrator p := rfl
@[simp] theorem resetWith_ser (p : Nat) : (State.resetWith p).ser = resetSerializer p := rfl
@[simp] theorem resetWith_inputs (p : Nat) : (State.resetWith p).inputs = [] := rfl
@[simp] theorem resetWith_tick (p : Nat) : (State.resetWith p).tick = 0 := rfl

/-! ### inputs -/

@[simp] theorem input_cons (s : State) (i : Inputs) (l : List Inputs) :
    ({ s with inputs := i :: l } : State).input = i := rfl
@[simp] theorem withCountersInRange_input (s : State) : s.withCountersInRange.input = s.input := rfl
@[simp] theorem withCountersInRange_prescaler (s : State) : s.withCountersInRange.prescaler = s.prescaler := rfl
@[simp] theorem withCountersInRange_obs (s : State) : s.withCountersInRange.obs = s.obs := rfl
@[simp] theorem withEnable_en (s : State) : s.withEnable.input.en = true := rfl
@[simp] theorem withEnable_o (s : State) : s.withEnable.o = s.o := rfl
@[simp] theorem withEnable_ser (s : State) : s.withEnable.ser = s.ser := rfl
@[simp] theorem withEnable_obs (s : State) : s.withEnable.obs = s.obs := rfl

end Sys2Proof.Machine
end

