-- ==== Sys2Proof/Laws/Ops.lean ====
section
/-! SUPPORT. What each shared operation can do, said once: the tick of a component, the selection of the serializer's
operation, the word completed on the wire, and the whole step. Later proofs cite these and do not unfold `exec` or
`step`. -/

namespace Sys2Proof.Machine

/-! ### The orchestrator's part of a tick -/

/-- No operation that a tick with `en = 1` runs finds a counter above PRESCALER. -/
abbrev Ranged (s : State) : Prop :=
  s.input.en = true → s.o.prescaleCounter ≤ s.prescaler ∧ s.ser.prescaleCounter ≤ s.prescaler

/-- What a tick of the orchestrator can do. -/
theorem orchTick_cases (s : State) (rule : Orchestrator → Orchestrator) :
    (s.input.en = false ∧ orchTick s rule = .next { s with o := resetOrchestrator s.prescaler }) ∨
    (s.input.en = true ∧ s.prescaler < s.o.prescaleCounter ∧
      orchTick s rule = .refused .prescaleCounterOutOfRange) ∨
    (s.input.en = true ∧ s.o.prescaleCounter ≤ s.prescaler ∧
      orchTick s rule = .next { s with o := refreshLatch s.input.refresh (rule s.o) }) := by
  unfold orchTick
  by_cases he : s.input.en = true
  · by_cases hp : s.prescaler < s.o.prescaleCounter
    · exact .inr (.inl ⟨he, hp, by simp [he, hp]⟩)
    · exact .inr (.inr ⟨he, Nat.le_of_not_lt hp, by simp [he, hp]⟩)
  · exact .inl ⟨by simpa using he, by simp [he]⟩

/-- With `en = 1` and its counter in range the orchestrator's tick is the state rule and the refresh latch. -/
theorem orchTick_enabled (s : State) (rule : Orchestrator → Orchestrator) (he : s.input.en = true)
    (hp : s.o.prescaleCounter ≤ s.prescaler) :
    orchTick s rule = .next { s with o := refreshLatch s.input.refresh (rule s.o) } := by
  simp [orchTick, he, Nat.not_lt.mpr hp]

/-- With `en = 0` it is reset entry. -/
theorem orchTick_disabled (s : State) (rule : Orchestrator → Orchestrator) (he : s.input.en = false) :
    orchTick s rule = .next { s with o := resetOrchestrator s.prescaler } := by
  simp [orchTick, he]

/-- The orchestrator's operation is a tick with some state rule. -/
theorem exec_orchOp_orchTick (s : State) : ∃ rule, exec s.orchOp s = orchTick s rule := by
  unfold State.orchOp
  cases s.o.state <;>
    simp only [StateTag.op, exec, execInit, execSendReg, execW4RegActive, execW4RegComplete, execSendValue,
      execW4ValueActive, execW4ValueComplete, execConfigNext, execTick, execSendUpdate, execW4UpdateActive,
      execW4UpdateComplete, execGetRow, execWaitForRow, execSendRow, execRowSent] <;>
    exact ⟨_, rfl⟩

/-- The orchestrator's registers after the tick: the state rule of the tag (41_orchestrator_config.md,
42_orchestrator_render.md), read back from its meaning. -/
def nextOrch (s : State) : Orchestrator :=
  match exec s.orchOp s with
  | .next a => a.o
  | _ => s.o

/-- The orchestrator's operation answers a next state that differs at most in the orchestrator's registers, or refuses a
counter out of range. -/
theorem exec_orchOp_cases (s : State) :
    ((s.input.en = true → s.o.prescaleCounter ≤ s.prescaler) ∧ exec s.orchOp s = .next { s with o := nextOrch s }) ∨
    (s.input.en = true ∧ s.prescaler < s.o.prescaleCounter ∧
      exec s.orchOp s = .refused .prescaleCounterOutOfRange) := by
  obtain ⟨rule, hr⟩ := exec_orchOp_orchTick s
  unfold nextOrch
  rcases orchTick_cases s rule with ⟨he, h⟩ | ⟨he, hp, h⟩ | ⟨he, hp, h⟩
  · exact .inl ⟨by simp [he], by rw [hr, h]⟩
  · exact .inr ⟨he, hp, by rw [hr, h]⟩
  · exact .inl ⟨fun _ => hp, by rw [hr, h]⟩

/-- With its counter in range, or with `en` low, the orchestrator's operation answers a next state. -/
theorem exec_orchOp (s : State) (h : s.input.en = true → s.o.prescaleCounter ≤ s.prescaler) :
    exec s.orchOp s = .next { s with o := nextOrch s } := by
  rcases exec_orchOp_cases s with ⟨-, e⟩ | ⟨he, hp, -⟩
  · exact e
  · exact absurd (h he) (Nat.not_le.mpr hp)

/-- With `en` low the orchestrator's registers are reset, whatever the rule. -/
theorem nextOrch_disabled (s : State) (h : s.input.en = false) : nextOrch s = resetOrchestrator s.prescaler := by
  obtain ⟨rule, hr⟩ := exec_orchOp_orchTick s
  unfold nextOrch
  rw [hr]
  simp [orchTick, h]

/-! ### The serializer's part of a tick -/

/-- The serializer's registers after the tick. -/
def nextSer (s : State) : Serializer :=
  match exec s.serOp s with
  | .next b => b.ser
  | _ => s.ser

/-- With its counter in range the serializer's tick answers a next state. -/
theorem serTick_in_range (s : State) (f : Serializer → Serializer) (h : s.ser.prescaleCounter ≤ s.prescaler) :
    serTick s f = .next { s with ser := f s.ser } := by
  simp [serTick, Nat.not_lt.mpr h]

/-- With its counter above PRESCALER it is refused. -/
theorem serTick_out_of_range (s : State) (f : Serializer → Serializer) (h : s.prescaler < s.ser.prescaleCounter) :
    serTick s f = .refused .prescaleCounterOutOfRange := by
  simp [serTick, h]

/-- The serializer's reset answers a next state where `en` is low, whatever the counter, and where the counter is in
range. -/
theorem serReset_next (s : State) (h : s.input.en = true → s.ser.prescaleCounter ≤ s.prescaler) :
    serReset s = .next { s with ser := resetSerializer s.prescaler } := by
  unfold serReset
  by_cases he : s.input.en = true
  · simp [he, serTick_in_range s _ (h he)]
  · simp [he]

/-- The six selections of the serializer's operation (30_encoding.md R76), as cases on the registers and wires. -/
theorem serOp_cases (s : State) :
    (s.serEn = false ∧ exec s.serOp s = execSerDisabled s) ∨
    (s.serEn = true ∧ s.ser.count = 0 ∧ s.o.outValid = false ∧ exec s.serOp s = execSerIdle s) ∨
    (s.serEn = true ∧ s.ser.count = 0 ∧ s.o.outValid = true ∧ exec s.serOp s = execSerAccept s) ∨
    (s.serEn = true ∧ s.ser.count ≠ 0 ∧ s.ser.prescaleCounter ≠ 0 ∧ exec s.serOp s = execSerWait s) ∨
    (s.serEn = true ∧ s.ser.count ≠ 0 ∧ s.ser.prescaleCounter = 0 ∧ s.ser.clkPhase = false ∧
      exec s.serOp s = execSerRise s) ∨
    (s.serEn = true ∧ s.ser.count ≠ 0 ∧ s.ser.prescaleCounter = 0 ∧ s.ser.clkPhase = true ∧
      exec s.serOp s = execSerFall s) := by
  by_cases he : s.serEn = true
  · by_cases hz : s.ser.count = 0
    · by_cases hv : s.o.outValid = true
      · simp [State.serOp, State.serCond, SerCond.op, exec, he, hz, hv]
      · simp [State.serOp, State.serCond, SerCond.op, exec, he, hz, hv]
    · by_cases hp : s.ser.prescaleCounter = 0
      · by_cases hc : s.ser.clkPhase = true
        · simp [State.serOp, State.serCond, SerCond.op, exec, he, hz, hp, hc]
        · simp [State.serOp, State.serCond, SerCond.op, exec, he, hz, hp, hc]
      · simp [State.serOp, State.serCond, SerCond.op, exec, he, hz, hp]
  · simp [State.serOp, State.serCond, SerCond.op, exec, he]

/-- With the prescale counter in range, or with `en` low, the serializer's operation answers a next state, and changes only
the serializer's registers. -/
theorem exec_serOp (s : State) (h : s.input.en = true → s.ser.prescaleCounter ≤ s.prescaler) :
    exec s.serOp s = .next { s with ser := nextSer s } := by
  have hs : s.serEn = true → s.ser.prescaleCounter ≤ s.prescaler := fun e =>
    h (by simp only [State.serEn, Bool.and_eq_true] at e; exact e.1)
  unfold nextSer
  rcases serOp_cases s with h' | h' | h' | h' | h' | h'
  · rw [h'.2, execSerDisabled, serReset_next s h]
  · rw [h'.2.2.2, execSerIdle, serTick_in_range s _ (hs h'.1)]
  · rw [h'.2.2.2, execSerAccept, serTick_in_range s _ (hs h'.1)]
  · rw [h'.2.2.2, execSerWait, serTick_in_range s _ (hs h'.1)]
  · rw [h'.2.2.2.2, execSerRise, serTick_in_range s _ (hs h'.1)]
  · rw [h'.2.2.2.2, execSerFall, serTick_in_range s _ (hs h'.1)]

/-- In a tick with `en = 1` and the counter above PRESCALER the serializer's operation is refused. -/
theorem exec_serOp_out_of_range (s : State) (he : s.input.en = true) (h : s.prescaler < s.ser.prescaleCounter) :
    exec s.serOp s = .refused .prescaleCounterOutOfRange := by
  rcases serOp_cases s with h' | h' | h' | h' | h' | h'
  · rw [h'.2, execSerDisabled, serReset, if_pos he, serTick_out_of_range s _ h]
  · rw [h'.2.2.2, execSerIdle, serTick_out_of_range s _ h]
  · rw [h'.2.2.2, execSerAccept, serTick_out_of_range s _ h]
  · rw [h'.2.2.2, execSerWait, serTick_out_of_range s _ h]
  · rw [h'.2.2.2.2, execSerRise, serTick_out_of_range s _ h]
  · rw [h'.2.2.2.2, execSerFall, serTick_out_of_range s _ h]

/-- What the serializer's registers become, by the operation selected (43_serializer.md R133 to R138). -/
theorem nextSer_cases (s : State) (h : s.input.en = true → s.ser.prescaleCounter ≤ s.prescaler) :
    (s.serEn = false ∧ nextSer s = resetSerializer s.prescaler) ∨
    (s.serEn = true ∧ s.ser.count = 0 ∧ s.o.outValid = false ∧ nextSer s = s.ser) ∨
    (s.serEn = true ∧ s.ser.count = 0 ∧ s.o.outValid = true ∧
      nextSer s = { s.ser with shiftReg := s.o.outPayload, count := 8 }) ∨
    (s.serEn = true ∧ s.ser.count ≠ 0 ∧ s.ser.prescaleCounter ≠ 0 ∧
      nextSer s = { s.ser with prescaleCounter := s.ser.prescaleCounter - 1 }) ∨
    (s.serEn = true ∧ s.ser.count ≠ 0 ∧ s.ser.prescaleCounter = 0 ∧ s.ser.clkPhase = false ∧
      nextSer s =
        { s.ser with
          prescaleCounter := s.prescaler, clkPhase := true, dataOut := topBit s.ser.shiftReg
          shiftReg := shiftLeftOne s.ser.shiftReg }) ∨
    (s.serEn = true ∧ s.ser.count ≠ 0 ∧ s.ser.prescaleCounter = 0 ∧ s.ser.clkPhase = true ∧
      nextSer s =
        { s.ser with prescaleCounter := s.prescaler, clkPhase := false, count := countDown s.ser.count }) := by
  have hs : s.serEn = true → s.ser.prescaleCounter ≤ s.prescaler := fun e =>
    h (by simp only [State.serEn, Bool.and_eq_true] at e; exact e.1)
  unfold nextSer
  rcases serOp_cases s with ⟨a, e⟩ | ⟨a, b, c, e⟩ | ⟨a, b, c, e⟩ | ⟨a, b, c, e⟩ | ⟨a, b, c, d, e⟩ | ⟨a, b, c, d, e⟩
  · exact .inl ⟨a, by rw [e, execSerDisabled, serReset_next s h]⟩
  · exact .inr (.inl ⟨a, b, c, by rw [e, execSerIdle, serTick_in_range s _ (hs a)]⟩)
  · exact .inr (.inr (.inl ⟨a, b, c, by rw [e, execSerAccept, serTick_in_range s _ (hs a)]⟩))
  · exact .inr (.inr (.inr (.inl ⟨a, b, c, by rw [e, execSerWait, serTick_in_range s _ (hs a)]⟩)))
  · exact .inr (.inr (.inr (.inr (.inl ⟨a, b, c, d, by rw [e, execSerRise, serTick_in_range s _ (hs a)]⟩))))
  · exact .inr (.inr (.inr (.inr (.inr ⟨a, b, c, d, by rw [e, execSerFall, serTick_in_range s _ (hs a)]⟩))))

/-! ### The word on the wire -/

/-- Every operation a wire word decodes to records a word and changes nothing else. -/
theorem exec_decodeWire16 (w : WireWord) (i : Instr) (s : State) (h : decodeWire16 w = .ok i) :
    ∃ v, exec i s = .next (s.recordWord v) := by
  unfold decodeWire16 at h
  split at h
  · cases h; exact ⟨_, rfl⟩
  split at h
  · cases h; exact ⟨_, rfl⟩
  split at h
  · cases h; exact ⟨_, rfl⟩
  split at h
  · cases h; exact ⟨_, rfl⟩
  split at h
  · cases h; exact ⟨_, rfl⟩
  split at h
  · cases h; exact ⟨_, rfl⟩
  split at h
  · cases h; exact ⟨_, rfl⟩
  · cases h

/-- Running the completed word answers a next state that differs at most in the words recorded. -/
theorem runWord_next (s : State) :
    ∃ ws, runWord s = .next { s with obs := { s.obs with words := ws } } := by
  unfold runWord State.wordOp State.recordOther
  cases hw : s.obs.wordDone s.wire with
  | none => exact ⟨s.obs.words, rfl⟩
  | some w =>
    cases hd : decodeWire16 w with
    | error e => exact ⟨s.obs.words ++ [w], by simp [decode, hd, Except.toOption, State.recordWord]⟩
    | ok i =>
      obtain ⟨v, hv⟩ := exec_decodeWire16 w i s hd
      exact ⟨s.obs.words ++ [v], by simp [decode, hd, Except.toOption, hv, State.recordWord]⟩

/-! ### The whole step -/

/-- One tick, said once: with the counters in range it answers a next state whose every field but the words recorded is
given here. -/
theorem step_eq (s : State) (h : Ranged s) :
    ∃ ws, step s = .next
      { prescaler := s.prescaler, o := nextOrch s, ser := nextSer s
        obs :=
          { s.obs.sample s.wire with
            payloads := s.obs.payloads ++ (if s.xfer then [s.o.outPayload] else [])
            words := ws }
        inputs := s.inputs.tail, tick := s.tick + 1 } := by
  obtain ⟨ws, hw⟩ := runWord_next s
  exact ⟨ws, by simp only [step, exec_orchOp s fun e => (h e).1, exec_serOp s fun e => (h e).2, hw, commit]⟩

/-- In a tick with `en = 1` and a counter above PRESCALER the step is refused. -/
theorem step_out_of_range (s : State) (he : s.input.en = true)
    (h : s.prescaler < s.o.prescaleCounter ∨ s.prescaler < s.ser.prescaleCounter) :
    step s = .refused .prescaleCounterOutOfRange := by
  rcases exec_orchOp_cases s with ⟨hp, e⟩ | ⟨-, -, e⟩
  · have hs : s.prescaler < s.ser.prescaleCounter := h.resolve_left (Nat.not_lt.mpr (hp he))
    simp only [step, e, exec_serOp_out_of_range s he hs]
  · simp only [step, e]

/-- A step that answers a next state found the counters in range. -/
theorem step_ranged (s t : State) (h : step s = .next t) : Ranged s := by
  intro he
  refine ⟨Nat.le_of_not_lt fun hp => ?_, Nat.le_of_not_lt fun hp => ?_⟩
  · simp [step_out_of_range s he (.inl hp)] at h
  · simp [step_out_of_range s he (.inr hp)] at h

/-- A step that answers a next state gives every field but the words recorded as `step_eq` has it. -/
theorem step_next (s t : State) (h : step s = .next t) :
    ∃ ws, t =
      { prescaler := s.prescaler, o := nextOrch s, ser := nextSer s
        obs :=
          { s.obs.sample s.wire with
            payloads := s.obs.payloads ++ (if s.xfer then [s.o.outPayload] else [])
            words := ws }
        inputs := s.inputs.tail, tick := s.tick + 1 } := by
  obtain ⟨ws, e⟩ := step_eq s (step_ranged s t h)
  exact ⟨ws, by simpa [h] using e⟩

/-- The orchestrator's registers after a step. -/
theorem step_o (s t : State) (h : step s = .next t) : t.o = nextOrch s := by
  obtain ⟨ws, rfl⟩ := step_next s t h
  rfl

/-- The serializer's registers after a step. -/
theorem step_ser (s t : State) (h : step s = .next t) : t.ser = nextSer s := by
  obtain ⟨ws, rfl⟩ := step_next s t h
  rfl

/-- The parameter of the instance is written by no step. -/
theorem step_prescaler (s t : State) (h : step s = .next t) : t.prescaler = s.prescaler := by
  obtain ⟨ws, rfl⟩ := step_next s t h
  rfl

/-- The wire trace grows by this tick's sample. -/
theorem step_trace (s t : State) (h : step s = .next t) : t.obs.trace = s.obs.trace ++ [s.wire] := by
  obtain ⟨ws, rfl⟩ := step_next s t h
  rfl

/-- One tick of the loop of R59 is one sample. -/
theorem wireDecodeFrom_cons (r : Observed) (w : WireSample) (l : List WireSample) :
    wireDecodeFrom r.lastSclk r.bits (w :: l) =
      (r.byteDone w).toList ++ wireDecodeFrom (r.sample w).lastSclk (r.sample w).bits l := by
  obtain ⟨cs, sclk, mosi⟩ := w
  obtain ⟨pl, tr, last, bits, bytes, half, ws⟩ := r
  cases cs
  · simp [wireDecodeFrom, Observed.sample, Observed.byteDone, Observed.edge]
  · by_cases hl : last = some false
    · cases sclk
      · simp [wireDecodeFrom, Observed.sample, Observed.byteDone, Observed.edge]
      · by_cases h8 : bits.length + 1 = 8
        · simp [wireDecodeFrom, Observed.sample, Observed.byteDone, Observed.edge, hl, h8]
        · simp [wireDecodeFrom, Observed.sample, Observed.byteDone, Observed.edge, hl, h8]
    · simp [wireDecodeFrom, Observed.sample, Observed.byteDone, Observed.edge, hl]

/-! ### Placing a code word (log 13) -/

/-- A state tag that is placed is the one the next tick runs. -/
theorem placeState4_orchOp (w : BitVec 4) (s : State) : (placeState4 w s).orchOp = (StateTag.ofCode w).op := rfl

/-- A condition vector that is placed is the vector of the next tick. -/
theorem placeSerCond_serCond (k : SerCond) (s : State) : (placeSerCond k s).serCond = k := by
  obtain ⟨e, z, v, p, c⟩ := k
  have h : (if s.ser.count = 0 then 8 else s.ser.count) ≠ 0 := by split <;> [decide; assumption]
  cases e <;> cases z <;> cases p <;>
    simp [placeSerCond, State.withEnable, State.serCond, State.serEn, State.input, h]

/-- A wire word that is placed is the word completed in the next tick. -/
theorem placeWire16_wordDone (w : WireWord) (s : State) :
    (placeWire16 w s).obs.wordDone (placeWire16 w s).wire = some w := by
  simp only [placeWire16, State.withEnable, State.wire, State.outputs, State.serEn, State.input, Observed.wordDone,
    Observed.byteDone, Observed.edge]
  simp [byteOfBits]
  refine BitVec.eq_of_getLsbD_eq fun i hi => ?_
  rw [BitVec.getLsbD_append]
  interval_cases i <;> simp [BitVec.getElem_shiftConcat]

/-- Wherever a code word is placed, the counters are in range, so the next step answers a next state. -/
theorem placeWord_ranged (cw : CodeWord) (s : State) : Ranged (placeWord cw s) := by
  intro _
  cases cw with
  | state4 w => simp [placeWord, placeState4, State.withCountersInRange]
  | serCond w => cases h : (SerCond.ofBits w).p <;> simp [placeWord, placeSerCond, h]
  | wire16 w => simp [placeWord, placeWire16]

end Sys2Proof.Machine
end

