-- ==== Sys2Proof/Laws/PerInstr.lean ====
section
/-! SUPPORT. For every instruction: the word it is encoded as matches its row of spec/opcode_table.json, so that
`(word AND mask) = match` with the row's mask and match, in the row's format. -/

namespace Sys2Proof.Laws.EncodesItsRow

/-- The `match` and `mask` of the instruction's row, as numbers. -/
def row : Instr → Nat × Nat
  | .init => (0x0, 0xF)
  | .sendReg => (0x1, 0xF)
  | .w4RegActive => (0x2, 0xF)
  | .w4RegComplete => (0x3, 0xF)
  | .sendValue => (0x4, 0xF)
  | .w4ValueActive => (0x5, 0xF)
  | .w4ValueComplete => (0x6, 0xF)
  | .configNext => (0x7, 0xF)
  | .tick => (0x8, 0xF)
  | .sendUpdate => (0x9, 0xF)
  | .w4UpdateActive => (0xA, 0xF)
  | .w4UpdateComplete => (0xB, 0xF)
  | .getRow => (0xC, 0xF)
  | .waitForRow => (0xD, 0xF)
  | .sendRow => (0xE, 0xF)
  | .rowSent => (0xF, 0xF)
  | .serDisabled _ _ _ _ => (0x00, 0x10)
  | .serIdle _ _ => (0x18, 0x1C)
  | .serAccept _ _ => (0x1C, 0x1C)
  | .serWait _ _ => (0x10, 0x1A)
  | .serRise _ => (0x12, 0x1B)
  | .serFall _ => (0x13, 0x1B)
  | .cfgWord0 => (0x0C00, 0xFFFF)
  | .cfgWord1 => (0x0F00, 0xFFFF)
  | .cfgWord2 => (0x0B07, 0xFFFF)
  | .cfgWord3 => (0x0900, 0xFFFF)
  | .cfgWord4 => (0x0C01, 0xFFFF)
  | .cfgWord5 => (0x0A02, 0xFFFF)
  | .rowWord _ _ => (0x0000, 0xF000)

/-- A code word's value as the table numbers its bits. -/
def value : CodeWord → Nat
  | .state4 w => w.toNat
  | .serCond w => w.toNat
  | .wire16 w => w.toNat

/-- The encoding of `i` matches the row of `i`. -/
def Statement (i : Instr) : Prop := value (encode i) &&& (row i).2 = (row i).1

theorem init : Statement .init := rfl
theorem sendReg : Statement .sendReg := rfl
theorem w4RegActive : Statement .w4RegActive := rfl
theorem w4RegComplete : Statement .w4RegComplete := rfl
theorem sendValue : Statement .sendValue := rfl
theorem w4ValueActive : Statement .w4ValueActive := rfl
theorem w4ValueComplete : Statement .w4ValueComplete := rfl
theorem configNext : Statement .configNext := rfl
theorem tick : Statement .tick := rfl
theorem sendUpdate : Statement .sendUpdate := rfl
theorem w4UpdateActive : Statement .w4UpdateActive := rfl
theorem w4UpdateComplete : Statement .w4UpdateComplete := rfl
theorem getRow : Statement .getRow := rfl
theorem waitForRow : Statement .waitForRow := rfl
theorem sendRow : Statement .sendRow := rfl
theorem rowSent : Statement .rowSent := rfl
theorem serDisabled (z v p c : Bool) : Statement (.serDisabled z v p c) := by
  cases z <;> cases v <;> cases p <;> cases c <;> rfl
theorem serIdle (p c : Bool) : Statement (.serIdle p c) := by cases p <;> cases c <;> rfl
theorem serAccept (p c : Bool) : Statement (.serAccept p c) := by cases p <;> cases c <;> rfl
theorem serWait (v c : Bool) : Statement (.serWait v c) := by cases v <;> cases c <;> rfl
theorem serRise (v : Bool) : Statement (.serRise v) := by cases v <;> rfl
theorem serFall (v : Bool) : Statement (.serFall v) := by cases v <;> rfl
theorem cfgWord0 : Statement .cfgWord0 := rfl
theorem cfgWord1 : Statement .cfgWord1 := rfl
theorem cfgWord2 : Statement .cfgWord2 := rfl
theorem cfgWord3 : Statement .cfgWord3 := rfl
theorem cfgWord4 : Statement .cfgWord4 := rfl
theorem cfgWord5 : Statement .cfgWord5 := rfl
/-- Bits 12 to 15 of a frame word are 0 (30_encoding.md R79). -/
theorem frame_top_bits (sel : BitVec 4) (bitmap : Byte) :
    (0#4 ++ sel ++ bitmap : BitVec (4 + 4 + 8)).toNat < 2 ^ 12 := by
  have hs := sel.isLt
  have hb := bitmap.isLt
  rw [BitVec.toNat_append, BitVec.toNat_append]
  refine Nat.or_lt_two_pow ?_ (by omega)
  simp only [Nat.shiftLeft_eq, BitVec.toNat_ofNat]
  simp
  omega
theorem rowWord (sel : BitVec 4) (bitmap : Byte) : Statement (.rowWord sel bitmap) := by
  refine Nat.eq_of_testBit_eq fun i => ?_
  have h := frame_top_bits sel bitmap
  rw [Nat.testBit_and]
  by_cases hi : i < 12
  · have hm : ∀ j : Fin 12, Nat.testBit 0xF000 j.val = false := by decide
    simp [row, hm ⟨i, hi⟩]
  · have hv : Nat.testBit (value (encode (.rowWord sel bitmap))) i = false :=
      Nat.testBit_lt_two_pow (Nat.lt_of_lt_of_le h (Nat.pow_le_pow_right (by decide) (by omega)))
    simp [hv, row]

end Sys2Proof.Laws.EncodesItsRow
end

