-- ==== Sys2Proof/Tests/Slice0.lean ====
section
/-! SUPPORT. Tests, and a witness for the hypotheses of every obligation that has any. Expected values are those of
spec/95_test_vectors.md (its ids V1 to V43, S1 to S11 stand in the comments) and the words of spec/30_encoding.md, worked out
there from the rules; none was taken from a run of this model. -/

namespace Sys2Proof.Tests

open Sys2Proof Sys2Proof.Machine

/-! ### Small states -/

/-- Inputs with `en = 1` and every other pin 0. -/
def idle : Inputs := ⟨true, false, ⟨0, 0, 0, 0⟩, false, 0, false⟩

/-- Inputs with `en = 0` and every other pin 0. -/
def low : Inputs := { idle with en := false }

/-- The orchestrator's registers at reset for `PRESCALER = 1`. -/
def o0 : Orchestrator := (State.resetWith 1).o

/-- The same with the serializer requested, in state `t`. -/
def oOn (t : StateTag) : Orchestrator := { o0 with state := t, serEnable := true }

/-- The serializer's registers at reset for `PRESCALER = 1`. -/
def r0 : Serializer := (State.resetWith 1).ser

/-- Serializer registers in the order of the vectors S1 to S11. -/
def ser (n : Fin 9) (b : Byte) (c : Bool) (k : Nat) (d : Bool) : Serializer := ⟨n, b, c, k, d⟩

/-- A state with `PRESCALER = 1` whose one scheduled tick has the inputs `i`. -/
def mk (i : Inputs) (o : Orchestrator) (r : Serializer) : State := { bootWith 1 [i] with o := o, ser := r }

/-- The state after one step. -/
def after (s : State) : State :=
  match step s with
  | .next t => t
  | _ => s

/-- Whether an outcome is a next state. -/
def isNext (r : Result) : Bool :=
  match r with
  | .next _ => true
  | _ => false

/-- The serializer's registers after one operation. -/
def serAfter (i : Instr) (s : State) : Option Serializer :=
  match exec i s with
  | .next t => some t.ser
  | _ => none

/-- Whether an outcome is the refusal of a prescale counter out of range. -/
def isOutOfRange (r : Result) : Bool :=
  match r with
  | .refused .prescaleCounterOutOfRange => true
  | _ => false

/-! ### WellFormed: the select field of a frame word (R79, R87) -/

theorem test_wellFormed_refuses_select_zero : Instr.wellFormed (.rowWord 0#4 0xFF#8) = false := by decide
theorem test_wellFormed_refuses_select_nine : Instr.wellFormed (.rowWord 9#4 0xFF#8) = false := by decide
theorem test_wellFormed_accepts_the_ends :
    Instr.wellFormed (.rowWord 1#4 0x00#8) = true ∧ Instr.wellFormed (.rowWord 8#4 0xFF#8) = true := by decide
theorem test_wellFormed_is_WellFormed :
    ¬ (Instr.rowWord 0#4 0#8).WellFormed ∧ ¬ (Instr.rowWord 9#4 0#8).WellFormed ∧
      (Instr.rowWord 8#4 0#8).WellFormed ∧ (Instr.serWait true true).WellFormed := by
  decide

/-! ### Decoding: words written out from R71, R76, R78, R79 -/

theorem test_decode_config_tags :
    decode (.state4 0b0000#4) = .ok .init ∧ decode (.state4 0b0001#4) = .ok .sendReg ∧
    decode (.state4 0b0010#4) = .ok .w4RegActive ∧ decode (.state4 0b0011#4) = .ok .w4RegComplete ∧
    decode (.state4 0b0100#4) = .ok .sendValue ∧ decode (.state4 0b0101#4) = .ok .w4ValueActive ∧
    decode (.state4 0b0110#4) = .ok .w4ValueComplete ∧ decode (.state4 0b0111#4) = .ok .configNext := by
  decide

theorem test_decode_render_tags :
    decode (.state4 0b1000#4) = .ok .tick ∧ decode (.state4 0b1001#4) = .ok .sendUpdate ∧
    decode (.state4 0b1010#4) = .ok .w4UpdateActive ∧ decode (.state4 0b1011#4) = .ok .w4UpdateComplete ∧
    decode (.state4 0b1100#4) = .ok .getRow ∧ decode (.state4 0b1101#4) = .ok .waitForRow ∧
    decode (.state4 0b1110#4) = .ok .sendRow ∧ decode (.state4 0b1111#4) = .ok .rowSent := by
  decide

/-- `e z v p c`: 0xxxx, 110xx, 111xx, 10x0x, 10x10, 10x11. -/
theorem test_decode_condition_vectors :
    decode (.serCond 0b01011#5) = .ok (.serDisabled true false true true) ∧
    decode (.serCond 0b11001#5) = .ok (.serIdle false true) ∧
    decode (.serCond 0b11110#5) = .ok (.serAccept true false) ∧
    decode (.serCond 0b10101#5) = .ok (.serWait true true) ∧
    decode (.serCond 0b10010#5) = .ok (.serRise false) ∧
    decode (.serCond 0b10111#5) = .ok (.serFall true) := by
  decide

theorem test_decode_wire_words :
    decode (.wire16 0b0000110000000000#16) = .ok .cfgWord0 ∧ decode (.wire16 0b0000111100000000#16) = .ok .cfgWord1 ∧
    decode (.wire16 0b0000101100000111#16) = .ok .cfgWord2 ∧ decode (.wire16 0b0000100100000000#16) = .ok .cfgWord3 ∧
    decode (.wire16 0b0000110000000001#16) = .ok .cfgWord4 ∧ decode (.wire16 0b0000101000000010#16) = .ok .cfgWord5 ∧
    decode (.wire16 0b0000000101111110#16) = .ok (.rowWord 1#4 0x7E#8) ∧
    decode (.wire16 0b0000100000010111#16) = .ok (.rowWord 8#4 0x17#8) := by
  decide

theorem test_decode_refuses_by_name :
    decode (.wire16 0x1101#16) = .error (.noWireFormat 0x1101#16) ∧
    decodeBytes [0x20#8] = .error (.noByteFormat 0x20#8) ∧ decodeBytes [] = .error (.badLength 0) ∧
    decodeBytes [0x0C#8, 0x00#8, 0x0C#8] = .error (.badLength 3) := by
  decide

/-- Bytes as the table numbers them; the first byte of a wire word is the one sent first. -/
theorem test_decodeTableWord :
    decodeTableWord 8 0x0D = some .waitForRow ∧ decodeTableWord 4 0x0D = some .waitForRow ∧
    decodeTableWord 8 0x1C = some (.serAccept false false) ∧
    decodeTableWord 5 0x00 = some (.serDisabled false false false false) ∧
    decodeTableWord 16 0x0B07 = some .cfgWord2 ∧ decodeTableWord 16 0x0100 = some (.rowWord 1#4 0#8) ∧
    decodeTableWord 16 0xFFFF = none ∧ decodeTableWord 8 0x10C = none := by
  decide

/-- No condition vector matches two rows of the table, and each matches one (R76). -/
theorem test_condition_rows_are_disjoint_and_cover :
    ∀ w : BitVec 5,
      (([(0x00#5, 0x10#5), (0x18#5, 0x1C#5), (0x1C#5, 0x1C#5), (0x10#5, 0x1A#5), (0x12#5, 0x1B#5), (0x13#5, 0x1B#5)].filter
        fun r => w &&& r.2 = r.1).length = 1) := by
  decide

/-! ### A placed word runs in the next step, also after reset -/

theorem test_placed_words_run_after_reset :
    isNext (step (State.reset.withFetchWord 8 0x0F)) = true ∧ isNext (step (State.reset.withFetchWord 5 0x00)) = true ∧
    isNext (step (State.reset.withFetchWord 8 0x18)) = true ∧ isNext (step (State.reset.withFetchWord 8 0x1C)) = true ∧
    isNext (step (State.reset.withFetchWord 8 0x10)) = true ∧ isNext (step (State.reset.withFetchWord 8 0x12)) = true ∧
    isNext (step (State.reset.withFetchWord 8 0x13)) = true ∧ isNext (step (State.reset.withFetchWord 16 0x0F00)) = true :=
  ⟨rfl, rfl, rfl, rfl, rfl, rfl, rfl, rfl⟩

theorem test_placed_wire_word_is_recorded :
    (after (State.reset.withFetchWord 16 0x0B07)).obs.words = [0x0B07#16] ∧
    (after (State.reset.withFetchWord 16 0x0812)).obs.words = [0x0812#16] :=
  ⟨rfl, rfl⟩

/-! ### The orchestrator's operations, one step each -/

/-- V1. -/
theorem test_init : (after (mk idle o0 r0)).o = { o0 with state := .sendReg } ∧ (after (mk idle o0 r0)).ser = r0 := by
  decide

/-- V2: on the first visit the serializer is not enabled yet and the state stays. -/
theorem test_sendReg_first_visit :
    (after (mk idle { o0 with state := .sendReg } r0)).o =
      { o0 with state := .sendReg, serEnable := true, outValid := true, outPayload := 0x0C#8 } := by
  decide

/-- V3. -/
theorem test_sendReg_ready :
    (after (mk idle { oOn .sendReg with step := 2, digitIndex := 1#2 } r0)).o =
      { oOn .w4RegActive with step := 2, digitIndex := 1#2, outValid := true, outPayload := 0x0B#8 } := by
  decide

/-- V4: the offer is accepted in this tick, and the state is left in the next. -/
theorem test_w4RegActive_accept :
    let t := after (mk idle { oOn .w4RegActive with outValid := true, outPayload := 0x0B#8 } r0)
    t.o = { oOn .w4RegActive with outPayload := 0x0B#8 } ∧ t.ser = ser 8 0x0B#8 false 1 false ∧
      t.obs.payloads = [0x0B#8] := by
  decide

/-- V5. -/
theorem test_w4RegActive_busy :
    let t := after (mk idle (oOn .w4RegActive) (ser 8 0x0B#8 false 1 false))
    t.o = oOn .w4RegComplete ∧ t.ser = ser 8 0x0B#8 false 0 false := by
  decide

/-- V6. -/
theorem test_w4RegComplete_busy :
    let t := after (mk idle (oOn .w4RegComplete) (ser 3 0x60#8 true 0 true))
    t.o = oOn .w4RegComplete ∧ t.ser = ser 2 0x60#8 false 1 true := by
  decide

/-- V7. -/
theorem test_w4RegComplete_ready : (after (mk idle (oOn .w4RegComplete) r0)).o = oOn .sendValue := by decide

/-- V8. -/
theorem test_sendValue :
    (after (mk idle { oOn .sendValue with step := 5, outPayload := 0x0A#8 } r0)).o =
      { oOn .w4ValueActive with step := 5, outValid := true, outPayload := 0x02#8 } := by
  decide

/-- V9. -/
theorem test_w4ValueActive_accept :
    let t := after (mk idle { oOn .w4ValueActive with outValid := true, outPayload := 0x02#8 } r0)
    t.o = { oOn .w4ValueActive with outPayload := 0x02#8 } ∧ t.ser = ser 8 0x02#8 false 1 false := by
  decide

/-- V10. -/
theorem test_w4ValueComplete : (after (mk idle (oOn .w4ValueComplete) r0)).o = oOn .configNext := by decide

/-- V12: the next entry begins again at module 3. -/
theorem test_configNext_next_entry :
    (after (mk idle { oOn .configNext with step := 1, digitIndex := 0#2 } r0)).o =
      { oOn .sendReg with step := 2, digitIndex := 3#2 } := by
  decide

/-- V14: the end of the configuration, with a refresh in the same tick. -/
theorem test_configNext_last :
    (after (mk { idle with refresh := true } { oOn .configNext with step := 5, digitIndex := 0#2 } r0)).o =
      { o0 with state := .tick, step := 5 } := by
  decide

/-- V20. -/
theorem test_tick_waits :
    let o := { oOn .tick with refreshPending := false, digitIndex := 0#2, rowIndex := 7#3 }
    (after (mk { idle with digits := ⟨4, 3, 2, 1⟩ } o r0)).o = o := by
  decide

/-- V22: set wins over clear. -/
theorem test_tick_set_wins :
    (after (mk { idle with digits := ⟨9, 9, 9, 9⟩, refresh := true } { oOn .tick with digitIndex := 0#2, rowIndex := 7#3 }
        r0)).o =
      { oOn .sendUpdate with snap := ⟨9, 9, 9, 9⟩ } := by
  decide

/-- V25: row 7 is select byte 8. -/
theorem test_sendUpdate_last_row :
    (after (mk idle { oOn .sendUpdate with rowIndex := 7#3, digitIndex := 2#2 } r0)).o =
      { oOn .w4UpdateActive with rowIndex := 7#3, digitIndex := 2#2, outValid := true, outPayload := 0x08#8 } := by
  decide

/-- V26: the byte is offered while the one before still shifts. -/
theorem test_sendUpdate_busy :
    let o := { oOn .sendUpdate with rowIndex := 2#3, outValid := true, outPayload := 0x03#8 }
    let t := after (mk idle o (ser 5 0xE0#8 false 1 true))
    t.o = o ∧ t.ser = ser 5 0xE0#8 false 0 true := by
  decide

/-- V28. -/
theorem test_w4UpdateActive :
    (after (mk idle { oOn .w4UpdateActive with outValid := true, outPayload := 0x01#8 } (ser 8 0x01#8 false 1 false))).o =
      { oOn .w4UpdateComplete with outPayload := 0x01#8 } := by
  decide

/-- V29. -/
theorem test_w4UpdateComplete : (after (mk idle (oOn .w4UpdateComplete) { r0 with dataOut := true })).o = oOn .getRow := by
  decide

/-- V30: a response that is already valid is not taken. -/
theorem test_getRow :
    (after (mk { idle with grespValid := true, grespBitmap := 0xFF#8 } { oOn .getRow with snap := ⟨4, 3, 2, 1⟩ } r0)).o =
      { oOn .waitForRow with
        snap := ⟨4, 3, 2, 1⟩, reqChar := 0x31#8, reqRow := 0x00#8, reqValid := true, respReady := true } := by
  decide

/-- V31: a digit of 15 is not checked. -/
theorem test_getRow_digit_out_of_range :
    (after (mk idle { oOn .getRow with snap := ⟨15, 3, 2, 1⟩, digitIndex := 0#2, rowIndex := 7#3 } r0)).o.reqChar = 0x3F#8 ∧
    (after (mk idle { oOn .getRow with snap := ⟨15, 3, 2, 1⟩, digitIndex := 0#2, rowIndex := 7#3 } r0)).o.reqRow = 0x07#8 := by
  decide

/-- WaitForRow with its request out. -/
def oWait : Orchestrator := { oOn .waitForRow with reqValid := true, respReady := true, reqChar := 0x31#8 }

/-- V32. -/
theorem test_waitForRow_waits : (after (mk { idle with grespBitmap := 0x55#8 } oWait r0)).o = oWait := by decide

/-- V33: `greq_ready` is 0 and the response is taken. -/
theorem test_waitForRow_takes :
    (after (mk { idle with grespValid := true, grespBitmap := 0x7E#8 } { oWait with outPayload := 0x01#8 } r0)).o =
      { oOn .sendRow with reqChar := 0x31#8, bitmap := 0x7E#8, outPayload := 0x7E#8, outValid := true } := by
  decide

/-- V35. -/
theorem test_sendRow :
    let t := after (mk idle { oOn .sendRow with outValid := true, outPayload := 0x7E#8 } r0)
    t.o = { oOn .rowSent with outPayload := 0x7E#8 } ∧ t.ser = ser 8 0x7E#8 false 1 false := by
  decide

/-- V37. -/
theorem test_rowSent_next_row :
    (after (mk idle { oOn .rowSent with digitIndex := 0#2, rowIndex := 3#3 } (ser 8 0x7E#8 false 1 false))).o =
      { oOn .sendUpdate with digitIndex := 3#2, rowIndex := 4#3 } := by
  decide

/-- V38. -/
theorem test_rowSent_last_row :
    (after (mk idle { oOn .rowSent with digitIndex := 0#2, rowIndex := 7#3 } (ser 8 0x7E#8 false 1 false))).o =
      { oOn .tick with digitIndex := 0#2, rowIndex := 7#3 } := by
  decide

/-! ### Reset -/

/-- V40: the response on offer is not taken. -/
def sV40 : State :=
  mk { low with grespValid := true, grespBitmap := 0x7E#8, refresh := true }
    { oWait with step := 5, rowIndex := 4#3, digitIndex := 1#2, snap := ⟨4, 3, 2, 1⟩, refreshPending := false } r0

theorem test_reset_overrides_a_response :
    (after sV40).o = o0 ∧ (after sV40).ser = r0 ∧ sV40.outputs.cs = false ∧ sV40.outputs.greqValid = true := by
  decide

/-- V41: the partial byte is lost. -/
theorem test_reset_in_the_middle_of_a_byte :
    let s := mk low { oOn .w4RegComplete with outPayload := 0x0C#8 } (ser 5 0xC0#8 true 0 false)
    (after s).o = o0 ∧ (after s).ser = r0 ∧ s.outputs.sclk = true ∧ (after s).outputs.sclk = false := by
  decide

/-! ### The serializer's operations, one each -/

/-- A state whose serializer registers are `r` and whose offered byte is `b`. -/
def offers (b : Byte) (r : Serializer) : State := mk idle { o0 with outPayload := b } r

/-- S1. -/
theorem test_serDisabled :
    serAfter (.serDisabled false true true true) (offers 0xFF#8 (ser 5 0xC0#8 true 0 true)) =
      some (ser 0 0x00#8 false 1 false) := by
  decide

/-- S3. -/
theorem test_serIdle :
    serAfter (.serIdle false false) (offers 0xA5#8 (ser 0 0x00#8 false 1 true)) = some (ser 0 0x00#8 false 1 true) := by
  decide

/-- S4: the data line is not preloaded. -/
theorem test_serAccept :
    serAfter (.serAccept false false) (offers 0xA5#8 (ser 0 0x00#8 false 1 true)) = some (ser 8 0xA5#8 false 1 true) := by
  decide

/-- S5, `p = 3`. -/
theorem test_serWait :
    serAfter (.serWait true false) { offers 0x3C#8 (ser 8 0xA5#8 false 3 false) with prescaler := 3 } =
      some (ser 8 0xA5#8 false 2 false) := by
  decide

/-- R86, U6: a counter above PRESCALER, idle. -/
theorem test_serIdle_refuses :
    isOutOfRange (exec (.serIdle false false) (offers 0#8 (ser 0 0x00#8 false 2 false))) = true := by
  decide

/-- R86, U6: the inert counter above PRESCALER; R157: with `en = 0` it is reset. -/
theorem test_orchestrator_counter_out_of_range :
    isOutOfRange (step (mk idle { oOn .tick with prescaleCounter := 2 } r0)) = true ∧
      (after (mk low { oOn .tick with prescaleCounter := 2 } (ser 8 0x0C#8 false 2 false))).o = o0 := by
  decide

/-- R86, U6: a counter above PRESCALER. -/
theorem test_serWait_refuses :
    isOutOfRange (exec (.serWait false false) (offers 0#8 (ser 8 0xA5#8 false 2 false))) = true := by
  decide

/-- S6. -/
theorem test_serRise :
    serAfter (.serRise false) (offers 0#8 (ser 8 0xA5#8 false 0 false)) = some (ser 8 0x4A#8 true 1 true) := by
  decide

/-- S11: the last bit. -/
theorem test_serRise_last_bit :
    serAfter (.serRise false) (offers 0#8 (ser 1 0x80#8 false 0 false)) = some (ser 1 0x00#8 true 1 true) := by
  decide

/-- S7. -/
theorem test_serFall :
    serAfter (.serFall false) (offers 0#8 (ser 8 0x4A#8 true 0 true)) = some (ser 7 0x4A#8 false 1 true) := by
  decide

/-- S8: the offered byte is not accepted in this tick. -/
theorem test_serFall_last_bit :
    serAfter (.serFall true) (offers 0x3C#8 (ser 1 0x00#8 true 0 true)) = some (ser 0 0x00#8 false 1 true) := by
  decide

/-! ### The wire -/

/-- The waveforms of program P1, ticks 0 to 19, are the byte 0xA5. -/
theorem test_wireDecode_P1 :
    let sclk := [0, 0, 0, 1, 0, 1, 0, 1, 0, 1, 0, 1, 0, 1, 0, 1, 0, 1, 0, 0]
    let mosi := [0, 0, 0, 1, 1, 0, 0, 1, 1, 0, 0, 0, 0, 1, 1, 0, 0, 1, 1, 1]
    wireDecode (List.zipWith (fun c d => ⟨true, c == 1, d == 1⟩) sclk mosi) = [0xA5#8] := by
  decide

/-! ### Witnesses: states that meet the hypotheses of the obligations, clause by clause

A step that an obligation takes as a hypothesis is `step s = .next (after s)`, true by evaluation. -/

theorem witness_InitStartsTheSequence : (mk idle o0 r0).input.en = true ∧ OrchInRange (mk idle o0 r0) := by decide

/-- Both answers of `ready`, for a triple of the configuration and one of a frame. -/
theorem witness_ThreePhasePushOfEachTriple :
    let s := mk idle (oOn .sendReg) r0
    let u := mk idle (oOn .w4UpdateActive) (ser 1 0#8 true 0 false)
    s.input.en = true ∧ OrchInRange s ∧ (s.o.serEnable = true ∧ s.ser.count = 0) ∧
      u.input.en = true ∧ OrchInRange u ∧ ¬ (u.o.serEnable = true ∧ u.ser.count = 0) := by
  decide

/-- The ends of each range: module 3 and 1, entry 4 and 0, entry 5. -/
theorem witness_ConfigNextAdvancesModuleThenEntry :
    let s (d : BitVec 2) (n : Fin 6) := mk idle { oOn .configNext with digitIndex := d, step := n } r0
    (s 3 5).input.en = true ∧ OrchInRange (s 3 5) ∧ (s 3 5).o.digitIndex.toNat = 2 + 1 ∧ (s 1 0).o.digitIndex.toNat = 0 + 1 ∧
    (s 0 4).o.digitIndex = 0#2 ∧ (5 : Fin 6).val = (s 0 4).o.step.val + 1 ∧
    (s 0 0).o.digitIndex = 0#2 ∧ (1 : Fin 6).val = (s 0 0).o.step.val + 1 ∧
    (s 0 5).o.digitIndex = 0#2 ∧ (s 0 5).o.step = 5 := by
  decide

theorem witness_TickStartsAFrameOnAPendingRefresh :
    let s (f : Bool) := mk idle { oOn .tick with refreshPending := f } r0
    (s true).input.en = true ∧ OrchInRange (s true) ∧ (s true).o.refreshPending = true ∧
      (s false).input.en = true ∧ OrchInRange (s false) ∧ (s false).o.refreshPending = false := by
  decide

theorem witness_GetRowIssuesTheRequest :
    let s := mk idle { oOn .getRow with snap := ⟨15, 9, 10, 0⟩, rowIndex := 7#3 } r0
    s.input.en = true ∧ OrchInRange s := by
  decide

theorem witness_WaitForRowTakesTheResponse :
    let s (v : Bool) := mk { idle with grespValid := v } oWait r0
    (s true).input.en = true ∧ OrchInRange (s true) ∧ (s true).input.grespValid = true ∧
      (s false).input.en = true ∧ OrchInRange (s false) ∧ (s false).input.grespValid = false := by
  decide

/-- The transfer, and both reasons to stay. -/
theorem witness_SendRowLeavesOnTheTransfer :
    let s := mk idle (oOn .sendRow) r0
    let u := mk idle { o0 with state := .sendRow } r0
    let w := mk idle (oOn .sendRow) (ser 1 0#8 true 0 false)
    s.input.en = true ∧ OrchInRange s ∧ s.o.serEnable = true ∧ s.ser.count = 0 ∧ u.o.serEnable = false ∧
      w.ser.count ≠ 0 := by
  decide

/-- The ends of each range: module 3 and 1, row 6 and 0, row 7. -/
theorem witness_RowSentAdvancesModuleThenRow :
    let s (d : BitVec 2) (n : BitVec 3) := mk idle { oOn .rowSent with digitIndex := d, rowIndex := n } r0
    (s 3 7).input.en = true ∧ OrchInRange (s 3 7) ∧ (s 3 7).o.digitIndex.toNat = 2 + 1 ∧ (s 1 0).o.digitIndex.toNat = 0 + 1 ∧
    (s 0 6).o.digitIndex = 0#2 ∧ (s 0 6).o.rowIndex.toNat < 7 ∧ (s 0 0).o.rowIndex.toNat < 7 ∧
    (s 0 7).o.digitIndex = 0#2 ∧ (s 0 7).o.rowIndex = 7#3 := by
  decide

theorem witness_EnableLowOverridesEveryStateRule :
    Instr.init ∈ orchestratorOps ∧ Instr.rowSent ∈ orchestratorOps ∧ sV40.input.en = false := by
  decide

/-- One state for each of the six clauses; `e` fails for either reason. -/
theorem witness_SerializerOperationFollowsThePattern :
    let s (r : Serializer) (v : Bool) := mk idle { oOn .sendReg with outValid := v } r
    let e (s : State) : Prop := s.input.en = true ∧ s.o.serEnable = true
    ¬ e (mk low (oOn .sendReg) r0) ∧ ¬ e (mk idle o0 r0) ∧
    e (s r0 false) ∧ (s r0 false).ser.count = 0 ∧ (s r0 false).o.outValid = false ∧ (s r0 true).o.outValid = true ∧
    (s (ser 1 0 true 1 false) true).ser.count ≠ 0 ∧ (s (ser 1 0 true 1 false) true).ser.prescaleCounter ≠ 0 ∧
    (s (ser 8 0 false 0 false) true).ser.count ≠ 0 ∧ (s (ser 8 0 false 0 false) true).ser.prescaleCounter = 0 ∧
    (s (ser 8 0 false 0 false) true).ser.clkPhase = false ∧ (s (ser 8 0 true 0 false) true).ser.clkPhase = true := by
  decide

/-- The counter at PRESCALER and at 1. -/
theorem witness_SerializerWaitCountsTheDividerDown :
    let s := { mk idle (oOn .w4RegComplete) (ser 8 0 false 3 false) with prescaler := 3 }
    let u := mk idle (oOn .w4RegComplete) (ser 8 0 false 1 false)
    (s.ser.prescaleCounter = 2 + 1 ∧ 2 + 1 ≤ s.prescaler) ∧ (u.ser.prescaleCounter = 0 + 1 ∧ 0 + 1 ≤ u.prescaler) := by
  decide

/-- The counter at PRESCALER + 1. -/
theorem witness_SerializerWaitRefusesACounterOutOfRange :
    (mk idle (oOn .w4RegComplete) (ser 8 0 false 2 false)).prescaler <
      (mk idle (oOn .w4RegComplete) (ser 8 0 false 2 false)).ser.prescaleCounter := by
  decide

/-- Disabled by `en` with the counter out of range, and in range. -/
theorem witness_SerializerDisablesHoldsOrLoads :
    (mk low o0 (ser 8 0 false 2 false)).input.en = false ∧ SerInRange (mk idle o0 (ser 0 0 false 1 false)) := by
  decide

/-- Either counter one above PRESCALER, with `en = 1`. -/
theorem witness_CountersOutOfRangeAreRefused :
    let s := mk idle { oOn .w4RegComplete with prescaleCounter := 2 } r0
    let u := mk idle (oOn .w4RegComplete) (ser 0 0 false 2 false)
    Instr.w4RegComplete ∈ orchestratorOps ∧ s.input.en = true ∧ ¬ OrchInRange s ∧ u.input.en = true ∧ ¬ SerInRange u := by
  decide

/-- The first and the last bit. -/
theorem witness_SerializerRisesAndFalls :
    SerInRange (mk idle o0 (ser 8 0 true 0 false)) ∧ (mk idle o0 (ser 8 0 true 0 false)).ser.count.val = (7 : Fin 9).val + 1 ∧
      (mk idle o0 (ser 1 0 true 0 false)).ser.count.val = (0 : Fin 9).val + 1 := by
  decide

/-- A word of the table, a word of no format, and no word. -/
theorem witness_EveryCompletedWordIsRecorded :
    let s := (bootWith 1 [idle]).withFetchWord 16 0x0B07
    let u := (bootWith 1 [idle]).withFetchWord 16 0xF001
    step s = .next (after s) ∧ s.obs.wordDone s.wire = some 0x0B07#16 ∧
    step (placeWire16 0xF001#16 u) = .next (after (placeWire16 0xF001#16 u)) ∧
      (placeWire16 0xF001#16 u).obs.wordDone (placeWire16 0xF001#16 u).wire = some 0xF001#16 ∧
    step (bootWith 1 [idle]) = .next (after (bootWith 1 [idle])) ∧
      (bootWith 1 [idle]).obs.wordDone (bootWith 1 [idle]).wire = none :=
  ⟨rfl, rfl, rfl, rfl, rfl, rfl⟩

/-- Both ends of the select field's range. -/
theorem witness_DecodeOfEncodeIsTheInstruction :
    (Instr.rowWord 1#4 0x00#8).WellFormed ∧ (Instr.rowWord 8#4 0xFF#8).WellFormed ∧
      (Instr.serDisabled true true true true).WellFormed := by
  decide

theorem witness_EncodeOfDecodeIsTheWord :
    decode (.wire16 0x08FF#16) = .ok (.rowWord 8#4 0xFF#8) ∧ (Instr.rowWord 8#4 0xFF#8).WellFormed ∧
    decode (.serCond 0b01111#5) = .ok (.serDisabled true true true true) ∧ decode (.state4 0xF#4) = .ok .rowSent := by
  decide

/-- A tick in which a word is completed: W4ValueComplete, SER.FALL, CFGWORD0. -/
def sWord : State :=
  { mk idle (oOn .w4ValueComplete) (ser 1 0x00#8 true 0 false) with
    obs := ⟨[0x0C#8, 0x00#8], [], some false, List.replicate 7 false, [0x0C#8], some 0x0C#8, []⟩ }

theorem witness_StepRunsTheDecodedOperations :
    ∃ a b c, decode (.state4 sWord.o.state.code) = .ok .w4ValueComplete ∧
      decode (.serCond sWord.serCond.bits) = .ok (.serFall false) ∧
      exec .w4ValueComplete sWord = .next a ∧ exec (.serFall false) sWord = .next b ∧
      sWord.obs.wordDone sWord.wire = some 0x0C00#16 ∧ decode (.wire16 0x0C00#16) = .ok .cfgWord0 ∧
      exec .cfgWord0 sWord = .next c ∧ (bootWith 1 [idle]).obs.wordDone (bootWith 1 [idle]).wire = none :=
  ⟨_, _, _, rfl, rfl, rfl, rfl, rfl, rfl, rfl, rfl⟩

/-- The counters at their upper end; and above it with `en = 0`. -/
theorem witness_StepNeverFaultsAndAlwaysGoesOn :
    let s := mk idle (oOn .w4RegComplete) (ser 8 0 false 1 false)
    let u := mk low (oOn .w4RegComplete) (ser 8 0 false 2 false)
    (s.input.en = true → OrchInRange s ∧ SerInRange s) ∧ (u.input.en = true → OrchInRange u ∧ SerInRange u) := by
  decide

theorem witness_NextTagFollowsTheSuccessorTable :
    let s := mk idle { oOn .configNext with digitIndex := 0#2, step := 5 } r0
    step s = .next (after s) ∧ s.input.en = true ∧ step sV40 = .next (after sV40) ∧ sV40.input.en = false :=
  ⟨rfl, rfl, rfl, rfl⟩

theorem witness_OneTickOfEnableLowResetsEveryRegister : sV40.input.en = false := by decide

/-- A second tick with `en = 0`, and one with `en = 1`. -/
theorem witness_DisablingTwiceIsDisablingOnce :
    let s (i : Inputs) := { sV40 with inputs := [low, i] }
    (s low).input.en = false ∧ step (s low) = .next (after (s low)) ∧ (after (s low)).input.en = false ∧
    (s idle).input.en = false ∧ step (s idle) = .next (after (s idle)) ∧ (after (s idle)).input.en = true :=
  ⟨rfl, rfl, rfl, rfl, rfl, rfl⟩

theorem witness_PortsAndWireAroundAReset : sV40.input.en = false ∧ step sV40 = .next (after sV40) := ⟨rfl, rfl⟩

/-- The three ways to be set, and the one way to be cleared. -/
theorem witness_RefreshFlagIsLatchedAndSetWins :
    let s (i : Inputs) (t : StateTag) (f : Bool) := mk i { oOn t with refreshPending := f } r0
    let u := s { idle with refresh := true } .tick true
    u.input.en = true ∧ step u = .next (after u) ∧
    step (s idle .init false) = .next (after (s idle .init false)) ∧
    step (s idle .getRow true) = .next (after (s idle .getRow true)) ∧
    step (s idle .tick true) = .next (after (s idle .tick true)) ∧ (after (s idle .tick true)).o.refreshPending = false :=
  ⟨rfl, rfl, rfl, rfl, rfl, rfl⟩

/-- The end of the configuration: module index, serializer enable. -/
def sConfigEnd : State := mk idle { oOn .configNext with step := 5, digitIndex := 0#2 } r0

/-- The entry before it: entry and module index. -/
def sEntryEnd : State := mk idle { oOn .configNext with step := 4, digitIndex := 0#2 } r0

/-- The end of a row: row and module index. -/
def sRowEnd : State := mk idle { oOn .rowSent with digitIndex := 0#2, rowIndex := 6#3 } (ser 8 0x7E#8 false 1 false)

/-- A frame starts on new digits. -/
def sFrameStart : State :=
  mk { idle with digits := ⟨4, 3, 2, 1⟩ } { oOn .tick with digitIndex := 0#2, rowIndex := 7#3, step := 5 } r0

/-- A response is taken. -/
def sResponse : State := mk { idle with grespValid := true, grespBitmap := 0x7E#8 } oWait r0

/-- A request is issued. -/
def sRequest : State := mk idle { oOn .getRow with rowIndex := 7#3 } r0

theorem witness_EachOrchestratorRegisterHasItsWriters_indices :
    step sEntryEnd = .next (after sEntryEnd) ∧ sEntryEnd.input.en = true ∧
    (after sEntryEnd).o.step ≠ sEntryEnd.o.step ∧ (after sEntryEnd).o.digitIndex ≠ sEntryEnd.o.digitIndex ∧
    step sRowEnd = .next (after sRowEnd) ∧ sRowEnd.input.en = true ∧ (after sRowEnd).o.rowIndex ≠ sRowEnd.o.rowIndex :=
  ⟨rfl, rfl, by decide, by decide, rfl, rfl, by decide⟩

theorem witness_EachOrchestratorRegisterHasItsWriters_flags :
    let s := mk idle { o0 with state := .sendReg, prescaleCounter := 0 } r0
    let u := mk idle { oOn .sendRow with outValid := true } r0
    let w := mk idle { o0 with state := .init, prescaleCounter := 0 } r0
    (step s = .next (after s) ∧ (after s).o.serEnable = true ∧ s.o.serEnable = false ∧ (after s).o.outValid = true ∧
      s.o.outValid = false ∧ (after s).o.outPayload ≠ s.o.outPayload) ∧
    (step sConfigEnd = .next (after sConfigEnd) ∧ (after sConfigEnd).o.serEnable = false ∧ sConfigEnd.o.serEnable = true) ∧
    (step u = .next (after u) ∧ (after u).o.outValid = false ∧ u.o.outValid = true) ∧
    (step w = .next (after w) ∧ (after w).o.prescaleCounter ≠ w.o.prescaleCounter) :=
  ⟨⟨rfl, by decide⟩, ⟨rfl, by decide⟩, ⟨rfl, by decide⟩, ⟨rfl, by decide⟩⟩

theorem witness_EachOrchestratorRegisterHasItsWriters_glyph :
    (step sRequest = .next (after sRequest) ∧ (after sRequest).o.reqValid ≠ sRequest.o.reqValid ∧
      (after sRequest).o.reqChar ≠ sRequest.o.reqChar) ∧
    (step sResponse = .next (after sResponse) ∧ (after sResponse).o.respReady ≠ sResponse.o.respReady ∧
      (after sResponse).o.bitmap ≠ sResponse.o.bitmap) ∧
    (step sFrameStart = .next (after sFrameStart) ∧ (after sFrameStart).o.snap ≠ sFrameStart.o.snap) :=
  ⟨⟨rfl, by decide⟩, ⟨rfl, by decide⟩, ⟨rfl, by decide⟩⟩

/-- An operation other than the accept, with another byte on offer. -/
theorem witness_HandshakeIsSafe_other_operations :
    ∃ t u, ¬ ((⟨true, false, true, true, true⟩ : SerCond).e = true ∧ (⟨true, false, true, true, true⟩ : SerCond).z = true ∧
        (⟨true, false, true, true, true⟩ : SerCond).v = true) ∧
      exec (SerCond.op ⟨true, false, true, true, true⟩) (offers 0x3C#8 (ser 1 0 true 0 true)) = .next t ∧
      exec (SerCond.op ⟨true, false, true, true, true⟩)
        { offers 0x3C#8 (ser 1 0 true 0 true) with
          o := { (offers 0x3C#8 (ser 1 0 true 0 true)).o with outPayload := 0xFF#8 } } = .next u :=
  ⟨_, _, by decide, rfl, rfl⟩

/-- The four clauses: accept, idle, the last bit with another byte offered, disabled with a byte offered. -/
theorem witness_HandshakeIsSafe :
    let a := mk idle { oOn .w4RegActive with outValid := true } r0
    let b := mk idle (oOn .w4RegComplete) r0
    let c := mk idle { oOn .sendUpdate with outValid := true } (ser 1 0 true 0 false)
    let d := mk low { oOn .w4RegActive with outValid := true } (ser 8 0 false 1 false)
    (step a = .next (after a) ∧ a.serEn = true ∧ a.ser.count = 0 ∧ a.o.outValid = true) ∧
    (step b = .next (after b) ∧ b.serEn = true ∧ b.ser.count = 0 ∧ b.o.outValid = false) ∧
    (step c = .next (after c) ∧ c.serEn = true ∧ c.ser.count ≠ 0) ∧ (step d = .next (after d) ∧ d.serEn = false) :=
  ⟨⟨rfl, by decide⟩, ⟨rfl, by decide⟩, ⟨rfl, by decide⟩, ⟨rfl, by decide⟩⟩

/-- SendUpdate offers while the byte before still shifts. -/
def sOffer : State :=
  mk idle { oOn .sendUpdate with rowIndex := 2#3, step := 5, outValid := true, outPayload := 0x03#8 }
    (ser 5 0xE0#8 false 1 true)

/-- W4RegActive in the tick after its transfer. -/
def sTaken : State :=
  mk idle { oOn .w4RegActive with outValid := true, outPayload := 0x0C#8 } (ser 8 0x0C#8 false 1 false)

theorem sOffer_runInv : RunInv sOffer := ⟨by decide, by decide, by decide, by decide, by decide, by decide⟩
theorem sTaken_runInv : RunInv sTaken := ⟨by decide, by decide, by decide, by decide, by decide, by decide⟩

/-- Both ways out. -/
theorem witness_OfferedByteIsHeldUntilTransferred :
    (RunInv sOffer ∧ sOffer.input.en = true ∧ sOffer.o.outValid = true ∧ sOffer.xfer = false ∧
      step sOffer = .next (after sOffer)) ∧
    (RunInv sTaken ∧ sTaken.input.en = true ∧ sTaken.o.outValid = true ∧ sTaken.xfer = false ∧
      step sTaken = .next (after sTaken)) :=
  ⟨⟨sOffer_runInv, rfl, rfl, rfl, rfl⟩, ⟨sTaken_runInv, rfl, rfl, rfl, rfl⟩⟩

/-- The data line goes up, and down. -/
theorem witness_DataChangesOnlyWithARisingEdge :
    let s (b : Byte) (d : Bool) := mk idle (oOn .w4RegComplete) (ser 8 b false 0 d)
    (s 0x80 false).input.en = true ∧ (s 0x80 false).o.serEnable = true ∧
    step (s 0x80 false) = .next (after (s 0x80 false)) ∧
      (after (s 0x80 false)).outputs.mosi ≠ (s 0x80 false).outputs.mosi ∧
    step (s 0x7F true) = .next (after (s 0x7F true)) ∧ (after (s 0x7F true)).outputs.mosi ≠ (s 0x7F true).outputs.mosi :=
  ⟨rfl, rfl, rfl, by decide, rfl, by decide⟩

theorem witness_AStallKeepsEveryRegister :
    let s := mk { idle with refresh := true } oWait r0
    let u := mk idle { oOn .tick with refreshPending := false } r0
    s.input.en = true ∧ step s = .next (after s) ∧ (s.o.state = .waitForRow ∧ s.input.grespValid = false) ∧
    u.input.en = true ∧ step u = .next (after u) ∧ (u.o.state = .tick ∧ u.o.refreshPending = false) :=
  ⟨rfl, rfl, ⟨rfl, rfl⟩, rfl, rfl, ⟨rfl, rfl⟩⟩

/-- A writing operation of each component. -/
theorem witness_ComponentsSeeOnlyTheirWires_writes :
    ∃ t u, Instr.rowSent ∈ orchestratorOps ∧ exec .rowSent sRowEnd = .next t ∧
      exec (SerCond.op ⟨true, false, true, true, true⟩) (offers 0x3C#8 (ser 1 0 true 0 true)) = .next u :=
  ⟨_, _, by decide, rfl, rfl⟩

/-- The orchestrator cannot tell bit 8 from bit 1, nor the serializer one waiting state from another. -/
theorem witness_ComponentsSeeOnlyTheirWires :
    let s := mk idle (oOn .w4RegComplete) (ser 8 0x0C#8 false 1 false)
    let u := mk idle (oOn .w4RegComplete) (ser 1 0xFF#8 true 0 true)
    let w := mk { idle with refresh := true } { oOn .getRow with rowIndex := 7#3 } (ser 8 0x0C#8 false 1 false)
    (s.prescaler = u.prescaler ∧ s.o = u.o ∧ s.input = u.input ∧ s.serReady = u.serReady ∧
      step s = .next (after s) ∧ step u = .next (after u)) ∧
    (s.prescaler = w.prescaler ∧ s.ser = w.ser ∧ s.serEn = w.serEn ∧ s.o.outValid = w.o.outValid ∧
      s.o.outPayload = w.o.outPayload ∧ step w = .next (after w)) :=
  ⟨⟨rfl, rfl, rfl, rfl, rfl, rfl⟩, ⟨rfl, rfl, rfl, rfl, rfl, rfl⟩⟩

/-- A frame that starts; and each reason why none does. -/
theorem witness_DigitsAreSampledOnlyWhenAFrameStarts :
    (sFrameStart.input.en = true ∧ sFrameStart.o.state = .tick ∧ sFrameStart.o.refreshPending = true ∧
      step sFrameStart = .next (after sFrameStart)) ∧
    (let s := mk low (oOn .tick) r0;
      s.inputs = low :: [] ∧ ¬ (low.en = true ∧ s.o.state = .tick ∧ s.o.refreshPending = true)) ∧
    (let s := mk idle (oOn .getRow) r0;
      s.inputs = idle :: [] ∧ ¬ (idle.en = true ∧ s.o.state = .tick ∧ s.o.refreshPending = true)) ∧
    (let s := mk idle { oOn .tick with refreshPending := false } r0;
      s.inputs = idle :: [] ∧ ¬ (idle.en = true ∧ s.o.state = .tick ∧ s.o.refreshPending = true)) :=
  ⟨⟨rfl, rfl, rfl, rfl⟩, by decide, by decide, by decide⟩

theorem witness_GlyphInputsCountOnlyInWaitForRow :
    sRequest.inputs = idle :: [] ∧ sRequest.o.state ≠ .waitForRow ∧ idle.grespValid = false := by
  decide

/-- The accept, and the first and last shifting tick. -/
theorem witness_AByteTakesSixteenHalfPeriods :
    let a := mk idle { oOn .w4RegActive with outValid := true, outPayload := 0x0C#8 } r0
    let b := mk idle (oOn .w4RegComplete) (ser 8 0x0C#8 false 1 false)
    let c := mk idle (oOn .w4RegComplete) (ser 1 0x00#8 true 0 false)
    (Inv a ∧ a.input.en = true ∧ a.o.serEnable = true ∧ step a = .next (after a) ∧ a.o.outValid = true ∧ a.ser.count = 0) ∧
    (Inv b ∧ b.input.en = true ∧ b.o.serEnable = true ∧ step b = .next (after b) ∧ b.ser.count ≠ 0) ∧
    (Inv c ∧ c.input.en = true ∧ c.o.serEnable = true ∧ step c = .next (after c) ∧ c.ser.count ≠ 0) :=
  ⟨⟨by decide, rfl, rfl, rfl, by decide⟩, ⟨by decide, rfl, rfl, rfl, by decide⟩, ⟨by decide, rfl, rfl, rfl, by decide⟩⟩

/-- A state on its way to Tick, and one at rest. -/
theorem witness_EveryTickIsOneTickNearerToRest :
    let u := mk idle { oOn .tick with refreshPending := false, step := 5 } r0
    (RunInv sOffer ∧ sOffer.input.en = true ∧ step sOffer = .next (after sOffer) ∧ sOffer.o.state ≠ .tick ∧
      sOffer.o.state ≠ .waitForRow) ∧
    (RunInv u ∧ u.input.en = true ∧ step u = .next (after u) ∧ u.o.state = .tick) :=
  ⟨⟨sOffer_runInv, rfl, rfl, by decide⟩,
    ⟨⟨by decide, by decide, by decide, by decide, by decide, by decide⟩, rfl, rfl, rfl⟩⟩

/-- Under `en = 1` and under `en = 0`. -/
theorem witness_EveryStepKeepsTheInvariants :
    (Inv sConfigEnd ∧ step sConfigEnd = .next (after sConfigEnd)) ∧ (Inv sTaken ∧ step sTaken = .next (after sTaken)) ∧
    (Inv { sTaken with inputs := [low] } ∧
      step { sTaken with inputs := [low] } = .next (after { sTaken with inputs := [low] })) :=
  ⟨⟨by decide, rfl⟩, ⟨by decide, rfl⟩, ⟨by decide, rfl⟩⟩

theorem witness_EveryStepKeepsTheRunInvariants :
    (RunInv sTaken ∧ step sTaken = .next (after sTaken)) ∧ (RunInv sOffer ∧ step sOffer = .next (after sOffer)) :=
  ⟨⟨sTaken_runInv, rfl⟩, ⟨sOffer_runInv, rfl⟩⟩

/-- Boot in the middle of the first byte: 0x0C has been transferred, four of its bits have been read, and the fifth is on
the data line with the clock still low. -/
def sMidByte : State :=
  { mk idle { oOn .w4RegComplete with outPayload := 0x0C#8 } (ser 4 0xC0#8 false 0 false) with
    obs := ⟨[0x0C#8], [], some false, [false, false, false, false], [], none, []⟩ }

theorem sMidByte_runInv : RunInv sMidByte := ⟨by decide, by decide, by decide, by decide, by decide, by decide⟩

/-- A byte in flight, and the last bit of a byte about to be read. -/
theorem witness_BytesOnTheWireAreTheBytesTransferred :
    (RunInv sMidByte ∧ WireFollows [] [] sMidByte ∧ sMidByte.input.en = true ∧ step sMidByte = .next (after sMidByte)) ∧
    (RunInv sWord ∧ WireFollows [] [] sWord ∧ sWord.input.en = true ∧ step sWord = .next (after sWord)) :=
  ⟨⟨sMidByte_runInv, ⟨[], by decide⟩, rfl, rfl⟩,
    ⟨⟨by decide, by decide, by decide, by decide, by decide, by decide⟩, ⟨[0x0C#8], by decide⟩, rfl, rfl⟩⟩

/-- One tick with the clock low has been seen, and it rises in this one. -/
def sTrace : State :=
  { mk idle (oOn .w4RegComplete) (ser 8 0x4A#8 true 1 true) with
    obs := ⟨[0xA5#8], [⟨true, false, false⟩], some false, [], [], none, []⟩ }

/-- With `en` high, and with `en` low. -/
theorem witness_BytesReadAreTheTraceDecoded :
    (DecodesItsTrace sTrace ∧ step sTrace = .next (after sTrace)) ∧
    (DecodesItsTrace { sTrace with inputs := [low] } ∧
      step { sTrace with inputs := [low] } = .next (after { sTrace with inputs := [low] })) :=
  ⟨⟨fun _ => rfl, rfl⟩, ⟨fun _ => rfl, rfl⟩⟩

/-- The first transfer of a configuration that follows other bytes, and the state after the last. -/
theorem witness_ConfigurationBytesAreSentInOrder :
    let s := { mk idle { oOn .sendReg with outValid := true, outPayload := 0x0C#8 } r0 with
      obs := ⟨[0x0C#8], [], some false, [], [], none, []⟩ }
    let u := { sConfigEnd with obs := ⟨configBytes, [], some false, [], configBytes, none, []⟩ }
    (RunInv s ∧ ConfigInOrder [0x0C#8] s ∧ s.input.en = true ∧ step s = .next (after s)) ∧
    (RunInv u ∧ ConfigInOrder [] u ∧ u.input.en = true ∧ step u = .next (after u)) :=
  ⟨⟨⟨by decide, by decide, by decide, by decide, by decide, by decide⟩, by decide, rfl, rfl⟩,
    ⟨⟨by decide, by decide, by decide, by decide, by decide, by decide⟩, by decide, rfl, rfl⟩⟩

/-- 32 bitmaps. -/
def bitmaps32 : List Byte := List.replicate 32 0x7E#8

/-- The three clauses: the start of a frame, the transfer of its second bitmap, and its end. -/
theorem witness_FrameBytesAreSentInOrder :
    let m := { mk idle { oOn .sendRow with
        step := 5, digitIndex := 2#2, outValid := true, outPayload := 0x55#8, bitmap := 0x55#8 } r0 with
      obs := ⟨configBytes ++ [0x01#8, 0x7E#8, 0x01#8], [], some false, [], configBytes ++ [0x01#8, 0x7E#8, 0x01#8], none, []⟩ }
    let e := { mk idle { oOn .rowSent with step := 5, digitIndex := 0#2, rowIndex := 7#3 } (ser 8 0x7E#8 false 1 false) with
      obs := ⟨frameBytes bitmaps32, [], some false, [], [], none, []⟩ }
    (RunInv sFrameStart ∧ sFrameStart.input.en = true ∧ step sFrameStart = .next (after sFrameStart) ∧
      sFrameStart.o.state = .tick ∧ (after sFrameStart).o.state = .sendUpdate) ∧
    (RunInv m ∧ m.input.en = true ∧ step m = .next (after m) ∧ m.o.state ∈ frameStates ∧
      FrameInOrder configBytes [0x7E#8] m ∧ (after m).o.state ∈ frameStates) ∧
    (RunInv e ∧ e.input.en = true ∧ step e = .next (after e) ∧ e.o.state ∈ frameStates ∧
      FrameInOrder [] bitmaps32 e ∧ (after e).o.state = .tick) :=
  ⟨⟨⟨by decide, by decide, by decide, by decide, by decide, by decide⟩, rfl, rfl, rfl, rfl⟩,
    ⟨⟨by decide, by decide, by decide, by decide, by decide, by decide⟩, rfl, rfl, by decide, by decide, by decide⟩,
    ⟨⟨by decide, by decide, by decide, by decide, by decide, by decide⟩, rfl, rfl, by decide, by decide, by decide⟩⟩

/-- The inputs of a whole boot with `PRESCALER = p`. -/
theorem witness_BootSendsTheConfigurationOnTime (p : Nat) :
    EnableHeld (List.replicate (169 + 48 * byteTicks p) idle) ∧
      (List.replicate (169 + 48 * byteTicks p) idle).length = 169 + 48 * byteTicks p ∧
      0 < (List.replicate (169 + 48 * byteTicks p) idle).length :=
  ⟨fun _ h => by rw [List.eq_of_mem_replicate h]; rfl, List.length_replicate, by
    rw [List.length_replicate]; exact Nat.lt_of_lt_of_le (by decide) (Nat.le_add_right _ _)⟩

theorem witness_EveryRunBeginsWithTheConfiguration : EnableHeld [idle, { idle with refresh := true }] := by decide

end Sys2Proof.Tests
end

section
/-! PROOFS, family 30_encoding.md. The serializer's selection: one equation of `SerCond.op` per pattern of R76's table, and
O10 from them. -/

namespace Sys2Proof

/-! ### The six patterns `ezvpc` (30_encoding.md R76) -/

section
variable (k : SerCond)

/-- Pattern `0----`. -/
theorem SerCond.op_of_disabled (he : k.e = false) : k.op = .serDisabled k.z k.v k.p k.c := by
  simp only [SerCond.op, he]

/-- Pattern `110--`. -/
theorem SerCond.op_of_idle (he : k.e = true) (hz : k.z = true) (hv : k.v = false) : k.op = .serIdle k.p k.c := by
  simp only [SerCond.op, he, hz, hv]

/-- Pattern `111--`. -/
theorem SerCond.op_of_offered (he : k.e = true) (hz : k.z = true) (hv : k.v = true) : k.op = .serAccept k.p k.c := by
  simp only [SerCond.op, he, hz, hv]

/-- Pattern `10-0-`. -/
theorem SerCond.op_of_dividing (he : k.e = true) (hz : k.z = false) (hp : k.p = false) : k.op = .serWait k.v k.c := by
  simp only [SerCond.op, he, hz, hp]

/-- Pattern `10-10`. -/
theorem SerCond.op_of_clock_low (he : k.e = true) (hz : k.z = false) (hp : k.p = true) (hc : k.c = false) :
    k.op = .serRise k.v := by
  simp only [SerCond.op, he, hz, hp, hc]

/-- Pattern `10-11`. -/
theorem SerCond.op_of_clock_high (he : k.e = true) (hz : k.z = false) (hp : k.p = true) (hc : k.c = true) :
    k.op = .serFall k.v := by
  simp only [SerCond.op, he, hz, hp, hc]

end

end Sys2Proof

namespace Sys2Proof.Machine

/-- The enable the serializer sees is high exactly where both its sources are (40_composition.md R96). -/
theorem serEn_eq_true_iff (s : State) : s.serEn = true ↔ s.input.en = true ∧ s.o.serEnable = true := by
  rw [State.serEn, Bool.and_eq_true]

/-- Settles O10: the condition vector of the state is read off its registers, and each clause is the equation of the
pattern that vector matches. -/
theorem serializerOperationFollowsThePattern : Obligations.SerializerOperationFollowsThePattern := by
  intro s z v p c e
  have enabled (he : e) : s.serCond.e = true := (serEn_eq_true_iff s).mpr he
  have disabled (he : ¬ e) : s.serCond.e = false := Bool.eq_false_iff.mpr (mt (serEn_eq_true_iff s).mp he)
  refine ⟨?disabled, ?idle, ?accept, ?wait, ?rise, ?fall⟩
  case disabled => exact fun he => s.serCond.op_of_disabled (disabled he)
  case idle => exact fun he hz hv => s.serCond.op_of_idle (enabled he) (decide_eq_true hz) hv
  case accept => exact fun he hz hv => s.serCond.op_of_offered (enabled he) (decide_eq_true hz) hv
  case wait =>
    exact fun he hz hp => s.serCond.op_of_dividing (enabled he) (decide_eq_false hz) (decide_eq_false hp)
  case rise =>
    exact fun he hz hp hc => s.serCond.op_of_clock_low (enabled he) (decide_eq_false hz) (decide_eq_true hp) hc
  case fall =>
    exact fun he hz hp hc => s.serCond.op_of_clock_high (enabled he) (decide_eq_false hz) (decide_eq_true hp) hc

end Sys2Proof.Machine
end

section
/-! PROOFS, family 40_composition.md. What each component's registers become, written as a function of the registers and
wires the component may read (R97) and tied to `exec` once; the whole step as one equation; and O22, O32 and O33 from them. -/

namespace Sys2Proof.Machine

/-! ### The orchestrator's state rules (41_orchestrator_config.md, 42_orchestrator_render.md) -/

/-- The writes of the rule of `tag` on the registers `o`. Beside them it sees only the parameter `p`, the input pins `i` and
`ser_ready`. -/
def stateRule (p : Nat) (i : Inputs) (ready : Bool) (tag : StateTag) (o : Orchestrator) : Orchestrator :=
  match tag with
  | .init =>
    { o with step := 0, digitIndex := Config.LAST, refreshPending := true, prescaleCounter := p, state := .sendReg }
  | .sendReg => pushSend ready (cfgRead o.step .reg) .w4RegActive (enableSerializer o)
  | .w4RegActive => pushActive ready .w4RegComplete o
  | .w4RegComplete => pushComplete ready .sendValue o
  | .sendValue => pushSend ready (cfgRead o.step .val) .w4ValueActive o
  | .w4ValueActive => pushActive ready .w4ValueComplete o
  | .w4ValueComplete => pushComplete ready .configNext o
  | .configNext =>
    if 0#2 < o.digitIndex then { o with digitIndex := o.digitIndex - 1#2, state := .sendReg }
    else if o.step < 5 then { o with digitIndex := Config.LAST, step := nextEntry o.step, state := .sendReg }
    else { o with digitIndex := Config.LAST, serEnable := false, state := .tick }
  | .tick =>
    if o.refreshPending then
      { o with
        refreshPending := false, digitIndex := Config.LAST, rowIndex := 0#3, snap := i.digits, state := .sendUpdate }
    else o
  | .sendUpdate => pushSend ready (rowSelectByte o.rowIndex) .w4UpdateActive (enableSerializer o)
  | .w4UpdateActive => pushActive ready .w4UpdateComplete o
  | .w4UpdateComplete => pushComplete ready .getRow o
  | .getRow =>
    { o with
      reqChar := charCode (digitAt o.snap o.digitIndex), reqRow := rowField o.rowIndex
      reqValid := true, respReady := true, state := .waitForRow }
  | .waitForRow =>
    if i.grespValid then
      { o with
        bitmap := i.grespBitmap, reqValid := false, respReady := false
        outPayload := i.grespBitmap, outValid := true, state := .sendRow }
    else o
  | .sendRow => if ready then { o with outValid := false, state := .rowSent } else o
  | .rowSent =>
    if 0#2 < o.digitIndex then { o with digitIndex := o.digitIndex - 1#2, state := .sendUpdate }
    else if o.rowIndex < 7#3 then
      { o with rowIndex := o.rowIndex + 1#3, digitIndex := Config.LAST, state := .sendUpdate }
    else { o with state := .tick }

/-- The operation of a tag is a tick with the state rule of that tag. -/
theorem exec_op (tag : StateTag) (s : State) :
    exec tag.op s = orchTick s (stateRule s.prescaler s.input s.serReady tag) := by
  cases tag <;> rfl

/-- Every operation of the orchestrator is that of a tag. -/
theorem exists_op_eq_of_mem_orchestratorOps {i : Instr} (h : i ∈ orchestratorOps) : ∃ tag : StateTag, tag.op = i :=
  have h' : i ∈ (configStates ++ .tick :: frameStates).map StateTag.op := h
  let ⟨tag, _, e⟩ := List.mem_map.mp h'
  ⟨tag, e⟩

/-- The orchestrator's registers after a tick: the rule of the current tag and the refresh latch, or reset entry. -/
theorem nextOrch_eq (s : State) (h : s.input.en = true → OrchInRange s) :
    nextOrch s =
      if s.input.en then
        refreshLatch s.input.refresh (stateRule s.prescaler s.input s.serReady s.o.state s.o)
      else resetOrchestrator s.prescaler := by
  by_cases he : s.input.en = true
  · simp only [nextOrch, State.orchOp, exec_op, orchTick_enabled s _ he (h he), he, if_true]
  · rw [if_neg he, nextOrch_disabled s (Bool.eq_false_iff.mpr he)]

/-- The rule of the current tag leaves the tag that the successor table gives (40_composition.md R104). The two that advance
an index ask whether it is short of its end, where the table asks whether it is there. -/
theorem stateRule_state (s : State) :
    (stateRule s.prescaler s.input s.serReady s.o.state s.o).state = successor s := by
  have digit_pos : ¬ 0#2 < s.o.digitIndex ↔ s.o.digitIndex = 0#2 := by bv_omega
  have step_short : ¬ s.o.step < 5 ↔ s.o.step = 5 := by omega
  have row_short : ¬ s.o.rowIndex < 7#3 ↔ s.o.rowIndex = 7#3 := by bv_omega
  unfold successor
  cases h : s.o.state
  case configNext =>
    simp only [stateRule, ← digit_pos, ← step_short]
    split_ifs <;> simp_all
  case rowSent =>
    simp only [stateRule, ← digit_pos, ← row_short]
    split_ifs <;> simp_all
  all_goals
    simp only [stateRule, pushSend, pushActive, pushComplete, enableSerializer, h, apply_ite Orchestrator.state]

/-- No rule reads the digits, but that of Tick with a refresh pending (40_composition.md R102). -/
theorem stateRule_digits (p : Nat) (i : Inputs) (ready : Bool) (tag : StateTag) (o : Orchestrator) (d : Digits)
    (h : ¬ (tag = .tick ∧ o.refreshPending = true)) :
    stateRule p { i with digits := d } ready tag o = stateRule p i ready tag o := by
  cases tag
  case tick =>
    have hp : ¬ o.refreshPending = true := fun hp => h ⟨rfl, hp⟩
    simp only [stateRule, if_neg hp]
  all_goals rfl

/-! ### The serializer's operations (43_serializer.md) -/

/-- The writes of the operation that the vector `k` selects on the registers `r`. Beside them it sees only the parameter `p`
and the offered byte `b`. -/
def serRule (p : Nat) (b : Byte) (k : SerCond) (r : Serializer) : Serializer :=
  if k.e then
    if k.z then
      if k.v then { r with shiftReg := b, count := 8 } else r
    else if k.p then
      if k.c then { r with prescaleCounter := p, clkPhase := false, count := countDown r.count }
      else
        { r with
          prescaleCounter := p, clkPhase := true, dataOut := topBit r.shiftReg, shiftReg := shiftLeftOne r.shiftReg }
    else { r with prescaleCounter := r.prescaleCounter - 1 }
  else resetSerializer p

/-- The operation of a condition vector is a tick of the serializer with that rule, or, with `ser_en = 0`, its reset. -/
theorem exec_serCond_op (k : SerCond) (s : State) :
    exec k.op s = if k.e then serTick s (serRule s.prescaler s.o.outPayload k) else serReset s := by
  obtain ⟨e, z, v, p, c⟩ := k
  match e, z, v, p, c with
  | false, _, _, _, _ => rfl
  | true, true, false, _, _ => rfl
  | true, true, true, _, _ => rfl
  | true, false, _, false, _ => rfl
  | true, false, _, true, false => rfl
  | true, false, _, true, true => rfl

/-- The serializer's registers after a tick. -/
theorem nextSer_eq (s : State) (h : s.input.en = true → SerInRange s) :
    nextSer s = serRule s.prescaler s.o.outPayload s.serCond s.ser := by
  by_cases hk : s.serCond.e = true
  · have he : s.input.en = true := ((serEn_eq_true_iff s).mp hk).1
    simp only [nextSer, State.serOp, exec_serCond_op, hk, if_true, serTick_in_range s _ (h he)]
  · simp only [nextSer, State.serOp, exec_serCond_op, serReset_next s h, serRule, hk, Bool.false_eq_true, if_false]

/-! ### Each component writes only its own registers (40_composition.md R97) -/

/-- A tick of the orchestrator. -/
theorem orchTick_frame {s t : State} {rule : Orchestrator → Orchestrator} (h : orchTick s rule = .next t) :
    t = { s with o := t.o } := by
  rcases orchTick_cases s rule with ⟨-, e⟩ | ⟨-, -, e⟩ | ⟨-, -, e⟩ <;> rw [e] at h <;> cases h <;> rfl

/-- A tick of the serializer. -/
theorem serTick_frame {s t : State} {f : Serializer → Serializer} (h : serTick s f = .next t) :
    t = { s with ser := t.ser } := by
  unfold serTick at h
  split at h <;> cases h
  rfl

/-- The serializer's reset. -/
theorem serReset_frame {s t : State} (h : serReset s = .next t) : t = { s with ser := t.ser } := by
  unfold serReset at h
  split at h
  · exact serTick_frame h
  · cases h; rfl

/-- The serializer's operation. -/
theorem exec_serCond_op_frame {k : SerCond} {s t : State} (h : exec k.op s = .next t) :
    t = { s with ser := t.ser } := by
  rw [exec_serCond_op] at h
  split at h
  · exact serTick_frame h
  · exact serReset_frame h

/-! ### The whole step -/

/-- A wire word whose bits 15 to 12 are 0 is the frame word of its two other fields (30_encoding.md R79). -/
theorem frameWord_fields {w : WireWord} (h : w.extractLsb' 12 4 = 0#4) :
    frameWord (w.extractLsb' 8 4) (w.extractLsb' 0 8) = w := by
  rw [frameWord, ← h, BitVec.extractLsb'_append_extractLsb'_eq_extractLsb' (by rfl)]
  exact BitVec.extractLsb'_append_extractLsb' (w := 8) (len := 8)

/-- The operation of a wire word of the table records that very word. -/
theorem exec_decodeWire16_records {w : WireWord} {i : Instr} (s : State) (h : decodeWire16 w = .ok i) :
    exec i s = .next (s.recordWord w) := by
  unfold decodeWire16 at h
  split_ifs at h with _ _ _ _ _ _ htop <;> cases h
  iterate 6
    · subst_vars
      rfl
  · exact congrArg (fun v => Host.Outcome.next (s.recordWord v)) (frameWord_fields htop)

/-- Running the completed word records it, and nothing where none is completed. -/
theorem runWord_eq (s : State) :
    runWord s = .next
      { s with obs := { s.obs with words := s.obs.words ++ (s.obs.wordDone s.wire).toList } } := by
  unfold runWord State.wordOp State.recordOther
  cases s.obs.wordDone s.wire with
  | none => simp
  | some w =>
    cases hd : decodeWire16 w with
    | error e => simp [decode, hd, Except.toOption, State.recordWord]
    | ok i => simp [decode, hd, Except.toOption, exec_decodeWire16_records s hd, State.recordWord]

/-- One tick, with every field given: `step_eq` and the words recorded. -/
theorem step_eq_next (s : State) (h : Ranged s) :
    step s = .next
      { prescaler := s.prescaler, o := nextOrch s, ser := nextSer s
        obs :=
          { s.obs.sample s.wire with
            payloads := s.obs.payloads ++ (if s.xfer then [s.o.outPayload] else [])
            words := s.obs.words ++ (s.obs.wordDone s.wire).toList }
        inputs := s.inputs.tail, tick := s.tick + 1 } := by
  simp only [step, exec_orchOp s fun e => (h e).1, exec_serOp s fun e => (h e).2, runWord_eq, commit]

/-- Where a counter that matters is out of range the step is refused. -/
theorem step_of_not_ranged (s : State) (h : ¬ Ranged s) : step s = .refused .prescaleCounterOutOfRange := by
  obtain ⟨he, hc⟩ := Classical.not_imp.mp h
  exact step_out_of_range s he ((not_and_or.mp hc).imp Nat.lt_of_not_le Nat.lt_of_not_le)

/-- This tick's pins matter to the step through `en`, `refresh` and the state rule: every other wire of the tick is made of
`en` and registers (40_composition.md R96). -/
theorem step_congr_input (s : State) (j : Inputs) {l : List Inputs} (htail : s.inputs.tail = l)
    (hen : j.en = s.input.en) (hrefresh : j.refresh = s.input.refresh)
    (hrule : s.input.en = true →
      stateRule s.prescaler j s.serReady s.o.state s.o = stateRule s.prescaler s.input s.serReady s.o.state s.o) :
    step { s with inputs := j :: l } = step s := by
  let u : State := { s with inputs := j :: l }
  have hu : u.input.en = s.input.en := hen
  have hserEn : u.serEn = s.serEn := congrArg (· && s.o.serEnable) hen
  have hready : u.serReady = s.serReady := congrArg (· && decide (s.ser.count = 0)) hserEn
  have hranged : Ranged u ↔ Ranged s := by rw [Ranged, Ranged, hu]
  change step u = step s
  by_cases hr : Ranged s
  · have hr' : Ranged u := hranged.mpr hr
    have horch : nextOrch u = nextOrch s := by
      rw [nextOrch_eq u fun e => (hr' e).1, nextOrch_eq s fun e => (hr e).1, hu, hready]
      by_cases he : s.input.en = true
      · rw [if_pos he, if_pos he, ← hrule he, ← hrefresh]
        rfl
      · rw [if_neg he, if_neg he]
    have hser : nextSer u = nextSer s := by
      rw [nextSer_eq u fun e => (hr' e).2, nextSer_eq s fun e => (hr e).2, State.serCond, State.serCond, hserEn]
    have hwire : u.wire = s.wire := by
      rw [State.wire, State.wire, State.outputs, State.outputs, hserEn]
    have hxfer : u.xfer = s.xfer := congrArg (s.o.outValid && ·) hready
    rw [step_eq_next u hr', step_eq_next s hr, horch, hser, hwire, hxfer, htail]
    rfl
  · rw [step_of_not_ranged s hr, step_of_not_ranged u (mt hranged.mp hr)]

/-! ### The statements -/

/-- Settles O22: the step writes what the rule of the current tag leaves, or resets. -/
theorem nextTagFollowsTheSuccessorTable : Obligations.NextTagFollowsTheSuccessorTable := by
  intro s t h
  have ht : t.o = nextOrch s := step_o s t h
  rw [ht]
  constructor
  · intro he
    rw [nextOrch_eq s fun e => (step_ranged s t h e).1, if_pos he, refreshLatch_state, stateRule_state]
  · intro he
    rw [nextOrch_disabled s he, resetOrchestrator]

/-- Settles O32: by `exec_op` and `exec_serCond_op` an operation is a tick of one component, and by `nextOrch_eq` and
`nextSer_eq` what it writes is a function of that component's registers and wires. -/
theorem componentsSeeOnlyTheirWires : Obligations.ComponentsSeeOnlyTheirWires := by
  refine ⟨?orchWrites, ?serWrites, ?orchReads, ?serReads⟩
  case orchWrites =>
    intro i s t hi h
    obtain ⟨tag, rfl⟩ := exists_op_eq_of_mem_orchestratorOps hi
    exact orchTick_frame ((exec_op tag s).symm.trans h)
  case serWrites => exact fun k s t h => exec_serCond_op_frame h
  case orchReads =>
    intro s u s' u' hp ho hi hr hs hu
    rw [step_o s s' hs, step_o u u' hu, nextOrch_eq s fun e => (step_ranged s s' hs e).1,
      nextOrch_eq u fun e => (step_ranged u u' hu e).1, hp, ho, hi, hr]
  case serReads =>
    intro s u s' u' hp hser hen hv hb hs hu
    have hk : s.serCond = u.serCond := by simp only [State.serCond, hser, hen, hv]
    rw [step_ser s s' hs, step_ser u u' hu, nextSer_eq s fun e => (step_ranged s s' hs e).2,
      nextSer_eq u fun e => (step_ranged u u' hu e).2, hp, hser, hb, hk]

/-- Settles O33: Tick with a refresh pending takes the digits, and no other rule reads them (`stateRule_digits`), nor does
reset entry. -/
theorem digitsAreSampledOnlyWhenAFrameStarts : Obligations.DigitsAreSampledOnlyWhenAFrameStarts := by
  constructor
  · intro s t he htag hpending h
    rw [step_o s t h, nextOrch_eq s fun e => (step_ranged s t h e).1, if_pos he, refreshLatch_snap, htag]
    simp only [stateRule, hpending, if_true]
  · intro s i l d hs hno
    have hi : s.input = i := by rw [State.input, hs]
    refine step_congr_input s { i with digits := d } (by rw [hs, List.tail_cons]) (by rw [hi]) (by rw [hi]) fun he => ?_
    rw [hi] at he ⊢
    exact stateRule_digits s.prescaler i s.serReady s.o.state s.o d fun ⟨htag, hpending⟩ => hno ⟨he, htag, hpending⟩

end Sys2Proof.Machine
end

section
/-! PROOFS, family 41_orchestrator_config.md. A tag's operation in an enabled tick as one equation, and O1 from it. -/

namespace Sys2Proof.Machine

/-- With `en = 1` and its counter in range the operation of a tag is the rule of that tag and then the refresh latch
(40_composition.md R98, R99). -/
theorem exec_op_enabled (tag : StateTag) (s : State) (he : s.input.en = true) (hp : OrchInRange s) :
    exec tag.op s =
      .next { s with
        o := refreshLatch s.input.refresh (stateRule s.prescaler s.input s.serReady tag s.o) } := by
  rw [exec_op, orchTick_enabled s _ he hp]

/-- The latch changes nothing where the flag is set already: a set wins (60_exceptions.md R155). -/
theorem refreshLatch_of_pending (r : Bool) {o : Orchestrator} (h : o.refreshPending = true) : refreshLatch r o = o := by
  rw [refreshLatch, h, Bool.or_true, ← h]

/-- Settles O1: the tick of Init is its state rule and the latch, and the rule leaves the flag set, whatever `refresh` is. -/
theorem initStartsTheSequence : Obligations.InitStartsTheSequence := by
  refine ⟨rfl, fun s he hp => ?_⟩
  have hrun := exec_op_enabled .init s he hp
  rw [refreshLatch_of_pending s.input.refresh (o := stateRule s.prescaler s.input s.serReady .init s.o) rfl] at hrun
  exact hrun

end Sys2Proof.Machine
end

section
/-! PROOFS, family 43_serializer.md. The serializer's rule as one equation per kind of tick (disabled, idle, accept, shifting),
the payloads a step observes, and O28 from them. -/

namespace Sys2Proof.Machine

/-! ### The serializer's rule -/

section
variable (p : Nat) (b : Byte) {k : SerCond} (r : Serializer)

/-- `SER.DISABLED` (43_serializer.md R133). -/
theorem serRule_of_disabled (he : k.e = false) : serRule p b k r = resetSerializer p := by
  simp only [serRule, he, Bool.false_eq_true, if_false]

/-- `SER.IDLE` (R134). -/
theorem serRule_of_idle (he : k.e = true) (hz : k.z = true) (hv : k.v = false) : serRule p b k r = r := by
  simp only [serRule, he, hz, hv, if_true, Bool.false_eq_true, if_false]

/-- `SER.ACCEPT` (R135). -/
theorem serRule_of_offered (he : k.e = true) (hz : k.z = true) (hv : k.v = true) :
    serRule p b k r = { r with shiftReg := b, count := 8 } := by
  simp only [serRule, he, hz, hv, if_true]

/-- Of the operations of a shifting tick only `SER.FALL` writes the count (R138, C2). -/
theorem serRule_count_of_shifting (he : k.e = true) (hz : k.z = false) :
    (serRule p b k r).count = r.count ∨ (serRule p b k r).count = countDown r.count := by
  simp only [serRule, he, hz, if_true, Bool.false_eq_true, if_false]
  split_ifs
  case pos => exact .inr rfl
  all_goals exact .inl rfl

/-- Of the operations of a shifting tick only `SER.RISE` writes the shift register (R137). -/
theorem serRule_shiftReg_of_shifting (he : k.e = true) (hz : k.z = false) :
    (serRule p b k r).shiftReg = r.shiftReg ∨ (serRule p b k r).shiftReg = shiftLeftOne r.shiftReg := by
  simp only [serRule, he, hz, if_true, Bool.false_eq_true, if_false]
  split_ifs with hp hc
  · exact .inl rfl
  · exact .inr rfl
  · exact .inl rfl

/-- The offered byte matters to the rule in `SER.ACCEPT` only. -/
theorem serRule_payload_irrelevant (b' : Byte) (h : ¬ (k.e = true ∧ k.z = true ∧ k.v = true)) :
    serRule p b' k r = serRule p b k r := by
  unfold serRule
  split_ifs with he hz hv
  · exact absurd ⟨he, hz, hv⟩ h
  all_goals rfl

end

/-- Shifted left by one, the byte is doubled modulo 256. -/
theorem shiftLeftOne_eq_ofNat (b : Byte) : shiftLeftOne b = BitVec.ofNat 8 (2 * b.toNat) := by
  apply BitVec.eq_of_toNat_eq
  simp only [shiftLeftOne, BitVec.toNat_shiftLeft, BitVec.toNat_ofNat, Nat.shiftLeft_eq, pow_one, Nat.mul_comm]

/-- The count of a byte under way goes down by exactly 1. -/
theorem countDown_val_add_one {n : Fin 9} (h : n ≠ 0) : (countDown n).val + 1 = n.val :=
  Nat.sub_add_cancel (Nat.pos_of_ne_zero (Fin.val_ne_of_ne h))

/-! ### What an operation and a step leave in the serializer's registers -/

/-- A serializer operation that answers a next state has written its rule. -/
theorem exec_serCond_op_ser {k : SerCond} {s t : State} (h : exec k.op s = .next t) :
    t.ser = serRule s.prescaler s.o.outPayload k s.ser := by
  rw [exec_serCond_op] at h
  by_cases he : k.e = true
  · rw [if_pos he, serTick] at h
    split_ifs at h
    cases h
    rfl
  · rw [serRule_of_disabled _ _ _ (Bool.eq_false_iff.mpr he)]
    rw [if_neg he, serReset, serTick] at h
    split_ifs at h <;> cases h <;> rfl

/-- So has a step, with the rule that the tick's condition vector selects. -/
theorem step_serRule {s t : State} (h : step s = .next t) :
    t.ser = serRule s.prescaler s.o.outPayload s.serCond s.ser := by
  rw [step_ser s t h, nextSer_eq s fun e => (step_ranged s t h e).2]

/-! ### The handshake (20_memory.md R63, 40_composition.md R96) -/

/-- The serializer is ready exactly where it is enabled and idle. -/
theorem serReady_eq_true_iff (s : State) : s.serReady = true ↔ s.serEn = true ∧ s.ser.count = 0 := by
  rw [State.serReady, Bool.and_eq_true, decide_eq_true_iff]

/-- A byte is transferred exactly where it is offered and the serializer is ready. -/
theorem xfer_eq_true_iff (s : State) : s.xfer = true ↔ s.o.outValid = true ∧ s.serReady = true := by
  rw [State.xfer, Bool.and_eq_true]

/-- A step with a transfer observes the offered byte. -/
theorem step_payloads_of_xfer {s t : State} (h : step s = .next t) (hx : s.xfer = true) :
    t.obs.payloads = s.obs.payloads ++ [s.o.outPayload] := by
  obtain ⟨ws, rfl⟩ := step_next s t h
  exact congrArg (s.obs.payloads ++ ·) (if_pos hx)

/-- A step without one observes none. -/
theorem step_payloads_of_not_xfer {s t : State} (h : step s = .next t) (hx : ¬ s.xfer = true) :
    t.obs.payloads = s.obs.payloads := by
  obtain ⟨ws, rfl⟩ := step_next s t h
  exact (congrArg (s.obs.payloads ++ ·) (if_neg hx)).trans (List.append_nil _)

/-- So does a step in which the serializer is not ready, whatever is offered. -/
theorem step_payloads_of_not_ready {s t : State} (h : step s = .next t) (hr : s.serReady = false) :
    t.obs.payloads = s.obs.payloads :=
  step_payloads_of_not_xfer h fun hx => Bool.eq_false_iff.mp hr ((xfer_eq_true_iff s).mp hx).2

/-! ### The statement -/

/-- Settles O28: the registers are the rule of the tick's kind (`step_serRule`), and a payload is observed in the tick of the
accept only, since no other tick is at once ready and offered a byte. -/
theorem handshakeIsSafe : Obligations.HandshakeIsSafe := by
  constructor
  · intro s t u k b hk ht hu
    rw [exec_serCond_op_ser ht, exec_serCond_op_ser hu]
    exact serRule_payload_irrelevant s.prescaler s.o.outPayload s.ser b hk
  intro s t h
  rw [step_serRule h]
  refine ⟨?accept, ?idle, ?shifting, ?disabled⟩
  case accept =>
    intro he hz hv
    have hready : s.serReady = true := (serReady_eq_true_iff s).mpr ⟨he, hz⟩
    rw [serRule_of_offered _ _ _ he (decide_eq_true hz) hv]
    exact ⟨hready, rfl, rfl, step_payloads_of_xfer h ((xfer_eq_true_iff s).mpr ⟨hv, hready⟩)⟩
  case idle =>
    intro he hz hv
    rw [serRule_of_idle _ _ _ he (decide_eq_true hz) hv]
    exact ⟨(serReady_eq_true_iff s).mpr ⟨he, hz⟩, rfl,
      step_payloads_of_not_xfer h fun hx => Bool.eq_false_iff.mp hv ((xfer_eq_true_iff s).mp hx).1⟩
  case shifting =>
    intro he hz
    have hready : s.serReady = false := Bool.eq_false_iff.mpr fun e => hz ((serReady_eq_true_iff s).mp e).2
    refine ⟨hready, ?_, ?_, step_payloads_of_not_ready h hready⟩
    · refine (serRule_count_of_shifting _ _ _ he (decide_eq_false hz)).imp_right fun e => ?_
      rw [e, countDown_val_add_one hz]
    · rw [← shiftLeftOne_eq_ofNat]
      exact serRule_shiftReg_of_shifting _ _ _ he (decide_eq_false hz)
  case disabled =>
    intro he
    have hready : s.serReady = false :=
      Bool.eq_false_iff.mpr fun e => Bool.eq_false_iff.mp he ((serReady_eq_true_iff s).mp e).1
    rw [serRule_of_disabled _ _ _ he]
    exact ⟨hready, rfl, step_payloads_of_not_ready h hready⟩

end Sys2Proof.Machine
end

section
/-! PROOFS, family 60_exceptions.md. O21 from the totality of the step on the states it does not refuse (`step_eq_next`). -/

namespace Sys2Proof.Machine

/-- Settles O21: a fault has no value to be one of (60_exceptions.md R147), and the hypothesis of the second half is the
`Ranged` of `step_eq_next`, which gives the next state. -/
theorem stepNeverFaultsAndAlwaysGoesOn : Obligations.StepNeverFaultsAndAlwaysGoesOn := by
  constructor
  · intro s f
    cases f
  · intro s hranged
    exact ⟨_, step_eq_next s hranged⟩

end Sys2Proof.Machine
end

section
/-! PROOFS, family other: encoding and decoding (30_encoding.md sections 1 to 3). -/

namespace Sys2Proof.Machine

/-- A frame word is the number its select byte and its bitmap make (30_encoding.md R79). -/
theorem frameWord_toNat (sel : BitVec 4) (bitmap : Byte) :
    (frameWord sel bitmap).toNat = 256 * sel.toNat + bitmap.toNat := by
  have hsel : (0#4 ++ sel).toNat = sel.toNat := by
    rw [BitVec.toNat_append, BitVec.toNat_zero, Nat.zero_shiftLeft, Nat.zero_or]
  rw [frameWord, BitVec.toNat_append, hsel, ← Nat.shiftLeft_add_eq_or_of_lt bitmap.isLt, Nat.shiftLeft_eq, Nat.mul_comm]

theorem frameWord_select (sel : BitVec 4) (bitmap : Byte) : (frameWord sel bitmap).extractLsb' 8 4 = sel := by
  apply BitVec.eq_of_toNat_eq
  have hb := bitmap.isLt
  rw [BitVec.extractLsb'_toNat, frameWord_toNat, Nat.shiftRight_eq_div_pow]
  omega

theorem frameWord_bitmap (sel : BitVec 4) (bitmap : Byte) : (frameWord sel bitmap).extractLsb' 0 8 = bitmap := by
  apply BitVec.eq_of_toNat_eq
  rw [BitVec.extractLsb'_toNat, frameWord_toNat, Nat.shiftRight_eq_div_pow]
  omega

theorem frameWord_top (sel : BitVec 4) (bitmap : Byte) : (frameWord sel bitmap).extractLsb' 12 4 = 0#4 := by
  apply BitVec.eq_of_toNat_eq
  have hb := bitmap.isLt
  have hs := sel.isLt
  rw [BitVec.extractLsb'_toNat, frameWord_toNat, Nat.shiftRight_eq_div_pow, BitVec.toNat_ofNat]
  omega

/-- A frame word with a select field of 1 to 8 is no configuration word, whose first bytes are 9 and above: it decodes as a
frame word. -/
theorem decodeWire16_frameWord (sel : BitVec 4) (bitmap : Byte) (h : (Instr.rowWord sel bitmap).WellFormed) :
    decodeWire16 (frameWord sel bitmap) = .ok (.rowWord sel bitmap) := by
  have hb := bitmap.isLt
  obtain ⟨-, h8⟩ := h
  have notConfig (w : WireWord) (hw : 0x900 ≤ w.toNat) : frameWord sel bitmap ≠ w := fun e => by
    rw [← e, frameWord_toNat] at hw
    omega
  rw [decodeWire16, if_neg (notConfig _ (by decide)), if_neg (notConfig _ (by decide)),
    if_neg (notConfig _ (by decide)), if_neg (notConfig _ (by decide)), if_neg (notConfig _ (by decide)),
    if_neg (notConfig _ (by decide)), if_pos (frameWord_top sel bitmap), frameWord_select, frameWord_bitmap]

/-- The Booleans of a condition vector are those of its bits. -/
theorem ofBits_bits (k : SerCond) : SerCond.ofBits k.bits = k := by
  obtain ⟨e, z, v, p, c⟩ := k
  revert e z v p c
  decide

/-- And the bits those of its Booleans. -/
theorem bits_ofBits (w : BitVec 5) : (SerCond.ofBits w).bits = w := by
  revert w
  decide

/-- The code of a condition vector decodes to the operation it selects. -/
theorem decode_bits (k : SerCond) : decode (.serCond k.bits) = .ok k.op := by
  rw [decode, ofBits_bits]

/-- Settles O18: the state tags by evaluation, the condition vectors because their bits give the vector back, the
configuration words by evaluation, the frame word by its fields. -/
theorem decodeOfEncodeIsTheInstruction : Obligations.DecodeOfEncodeIsTheInstruction := by
  intro i h
  cases i
  case serDisabled z v p c => exact decode_bits ⟨false, z, v, p, c⟩
  case serIdle p c => exact decode_bits ⟨true, true, false, p, c⟩
  case serAccept p c => exact decode_bits ⟨true, true, true, p, c⟩
  case serWait v c => exact decode_bits ⟨true, false, v, false, c⟩
  case serRise v => exact decode_bits ⟨true, false, v, true, false⟩
  case serFall v => exact decode_bits ⟨true, false, v, true, true⟩
  case rowWord sel bitmap => exact decodeWire16_frameWord sel bitmap h
  all_goals rfl

/-- The operation a condition vector selects is encoded as that vector. -/
theorem encode_serCond_op (k : SerCond) : encode k.op = .serCond k.bits := by
  obtain ⟨e, z, v, p, c⟩ := k
  match e, z, v, p, c with
  | false, _, _, _, _ => rfl
  | true, true, false, _, _ => rfl
  | true, true, true, _, _ => rfl
  | true, false, _, false, _ => rfl
  | true, false, _, true, false => rfl
  | true, false, _, true, true => rfl

/-- The operation of a tag is encoded as the tag's code. -/
theorem encode_tag_op (tag : StateTag) : encode tag.op = .state4 tag.code := by cases tag <;> rfl

/-- Every state code is that of a tag (30_encoding.md R86). -/
theorem code_ofCode (w : BitVec 4) : (StateTag.ofCode w).code = w := by
  revert w
  decide

/-- Every tag is that of its code. -/
theorem ofCode_code (tag : StateTag) : StateTag.ofCode tag.code = tag := by cases tag <;> rfl

/-- A wire word of the table is encoded as itself. -/
theorem encode_of_decodeWire16 {w : WireWord} {i : Instr} (h : decodeWire16 w = .ok i) : encode i = .wire16 w := by
  unfold decodeWire16 at h
  split_ifs at h with _ _ _ _ _ _ htop <;> cases h
  iterate 6
    · subst_vars
      rfl
  · exact congrArg CodeWord.wire16 (frameWord_fields htop)

/-- Settles O19: one law per format. -/
theorem encodeOfDecodeIsTheWord : Obligations.EncodeOfDecodeIsTheWord := by
  intro w i h _
  cases w with
  | state4 w =>
    cases h
    rw [encode_tag_op, code_ofCode]
  | serCond w =>
    cases h
    rw [encode_serCond_op, bits_ofBits]
  | wire16 w => exact encode_of_decodeWire16 h

/-- Settles O17, by evaluation. -/
theorem writtenOutWordsDecodeRight : Obligations.WrittenOutWordsDecodeRight := by
  unfold Obligations.WrittenOutWordsDecodeRight
  decide

/-- Settles O15: a word's operation records the word, a frame word being the number of its two bytes. -/
theorem wireWordsAreRecordedAsSent : Obligations.WireWordsAreRecordedAsSent := by
  intro s sel bitmap sent
  have hframe : frameWord sel bitmap = BitVec.ofNat 16 (256 * sel.toNat + bitmap.toNat) :=
    BitVec.eq_of_toNat_eq <| by
      rw [frameWord_toNat, BitVec.toNat_ofNat, Nat.mod_eq_of_lt]
      have := sel.isLt
      have := bitmap.isLt
      omega
  refine ⟨rfl, rfl, rfl, rfl, rfl, rfl, ?_⟩
  rw [← hframe]
  rfl

/-- Settles O16: the step records what running the completed word records. -/
theorem everyCompletedWordIsRecorded : Obligations.EveryCompletedWordIsRecorded := by
  intro s t h
  rw [step_eq_next s (step_ranged s t h)] at h
  cases h
  rfl

end Sys2Proof.Machine
end

section
/-! PROOFS, family other: what a step under each value of `en` leaves in the registers, said once. With `en = 1` it is a table,
one function for each register of the orchestrator, as 10_state.md section 2 lists the writers of each. -/

namespace Sys2Proof.Machine

/-! ### Each register of the orchestrator after a tick with `en = 1` -/

def nextStep (s : State) : Fin 6 :=
  match s.o.state with
  | .init => 0
  | .configNext => if s.o.digitIndex = 0#2 ∧ s.o.step ≠ 5 then nextEntry s.o.step else s.o.step
  | _ => s.o.step

def nextDigitIndex (s : State) : BitVec 2 :=
  match s.o.state with
  | .init => 3#2
  | .configNext => if s.o.digitIndex = 0#2 then 3#2 else s.o.digitIndex - 1#2
  | .tick => if s.o.refreshPending then 3#2 else s.o.digitIndex
  | .rowSent =>
    if s.o.digitIndex = 0#2 then if s.o.rowIndex = 7#3 then 0#2 else 3#2 else s.o.digitIndex - 1#2
  | _ => s.o.digitIndex

def nextRowIndex (s : State) : BitVec 3 :=
  match s.o.state with
  | .tick => if s.o.refreshPending then 0#3 else s.o.rowIndex
  | .rowSent => if s.o.digitIndex = 0#2 ∧ s.o.rowIndex ≠ 7#3 then s.o.rowIndex + 1#3 else s.o.rowIndex
  | _ => s.o.rowIndex

/-- What the state rule leaves in the refresh flag, before the latch (60_exceptions.md R155). -/
def ruleRefreshPending (s : State) : Bool :=
  match s.o.state with
  | .init => true
  | .tick => false
  | _ => s.o.refreshPending

def nextPrescaleCounter (s : State) : Nat :=
  match s.o.state with
  | .init => s.prescaler
  | _ => s.o.prescaleCounter

def nextSerEnable (s : State) : Bool :=
  match s.o.state with
  | .sendReg | .sendUpdate => true
  | .configNext => s.o.serEnable && !decide (s.o.digitIndex = 0#2 ∧ s.o.step = 5)
  | _ => s.o.serEnable

def nextOutValid (s : State) : Bool :=
  match s.o.state with
  | .sendReg | .sendValue | .sendUpdate => true
  | .w4RegActive | .w4ValueActive | .w4UpdateActive => false
  | .waitForRow => s.input.grespValid || s.o.outValid
  | .sendRow => !s.serReady && s.o.outValid
  | _ => s.o.outValid

def nextOutPayload (s : State) : Byte :=
  match s.o.state with
  | .sendReg => cfgRead s.o.step .reg
  | .sendValue => cfgRead s.o.step .val
  | .sendUpdate => rowSelectByte s.o.rowIndex
  | .waitForRow => if s.input.grespValid then s.input.grespBitmap else s.o.outPayload
  | _ => s.o.outPayload

def nextReqValid (s : State) : Bool :=
  match s.o.state with
  | .getRow => true
  | .waitForRow => !s.input.grespValid && s.o.reqValid
  | _ => s.o.reqValid

def nextRespReady (s : State) : Bool :=
  match s.o.state with
  | .getRow => true
  | .waitForRow => !s.input.grespValid && s.o.respReady
  | _ => s.o.respReady

def nextReqChar (s : State) : Byte :=
  match s.o.state with
  | .getRow => charCode (digitAt s.o.snap s.o.digitIndex)
  | _ => s.o.reqChar

def nextReqRow (s : State) : Byte :=
  match s.o.state with
  | .getRow => rowField s.o.rowIndex
  | _ => s.o.reqRow

def nextBitmap (s : State) : Byte :=
  match s.o.state with
  | .waitForRow => if s.input.grespValid then s.input.grespBitmap else s.o.bitmap
  | _ => s.o.bitmap

def nextSnap (s : State) : Digits :=
  match s.o.state with
  | .tick => if s.o.refreshPending then s.input.digits else s.o.snap
  | _ => s.o.snap

/-! ### The states that leave a register as it is (10_state.md section 2) -/

section
variable {s : State}

theorem nextStep_eq (h : s.o.state ∉ [StateTag.init, .configNext]) : nextStep s = s.o.step := by
  cases htag : s.o.state <;> simp_all [nextStep]

theorem nextDigitIndex_eq (h : s.o.state ∉ [StateTag.init, .configNext, .tick, .rowSent]) :
    nextDigitIndex s = s.o.digitIndex := by
  cases htag : s.o.state <;> simp_all [nextDigitIndex]

theorem nextRowIndex_eq (h : s.o.state ∉ [StateTag.tick, .rowSent]) : nextRowIndex s = s.o.rowIndex := by
  cases htag : s.o.state <;> simp_all [nextRowIndex]

theorem nextPrescaleCounter_eq (h : s.o.state ≠ .init) : nextPrescaleCounter s = s.o.prescaleCounter := by
  cases htag : s.o.state <;> simp_all [nextPrescaleCounter]

theorem nextOutValid_eq (h : s.o.state ∉ [StateTag.sendReg, .sendValue, .sendUpdate, .w4RegActive, .w4ValueActive,
    .w4UpdateActive, .waitForRow, .sendRow]) : nextOutValid s = s.o.outValid := by
  cases htag : s.o.state <;> simp_all [nextOutValid]

theorem nextOutPayload_eq (h : s.o.state ∉ [StateTag.sendReg, .sendValue, .sendUpdate, .waitForRow]) :
    nextOutPayload s = s.o.outPayload := by
  cases htag : s.o.state <;> simp_all [nextOutPayload]

theorem nextRequest_eq (h : s.o.state ∉ [StateTag.getRow, .waitForRow]) :
    nextReqValid s = s.o.reqValid ∧ nextRespReady s = s.o.respReady := by
  cases htag : s.o.state <;> simp_all [nextReqValid, nextRespReady]

theorem nextReqFields_eq (h : s.o.state ≠ .getRow) : nextReqChar s = s.o.reqChar ∧ nextReqRow s = s.o.reqRow := by
  cases htag : s.o.state <;> simp_all [nextReqChar, nextReqRow]

theorem nextBitmap_eq (h : ¬ (s.o.state = .waitForRow ∧ s.input.grespValid = true)) : nextBitmap s = s.o.bitmap := by
  cases htag : s.o.state <;> simp_all [nextBitmap]

theorem nextSnap_eq (h : ¬ (s.o.state = .tick ∧ s.o.refreshPending = true)) : nextSnap s = s.o.snap := by
  cases htag : s.o.state <;> simp_all [nextSnap]

end

/-- The orchestrator after a tick with `en = 1`, as the tables have it. -/
def tableOrch (s : State) : Orchestrator where
  state := successor s
  step := nextStep s
  digitIndex := nextDigitIndex s
  rowIndex := nextRowIndex s
  refreshPending := s.input.refresh || ruleRefreshPending s
  prescaleCounter := nextPrescaleCounter s
  serEnable := nextSerEnable s
  outValid := nextOutValid s
  outPayload := nextOutPayload s
  reqValid := nextReqValid s
  reqChar := nextReqChar s
  reqRow := nextReqRow s
  respReady := nextRespReady s
  bitmap := nextBitmap s
  snap := nextSnap s

/-! ### The two rules that advance an index, by whether it is at its end -/

theorem stateRule_configNext (p : Nat) (i : Inputs) (ready : Bool) (o : Orchestrator) :
    stateRule p i ready .configNext o =
      if o.digitIndex = 0#2 then
        if o.step = 5 then { o with digitIndex := 3#2, serEnable := false, state := .tick }
        else { o with digitIndex := 3#2, step := nextEntry o.step, state := .sendReg }
      else { o with digitIndex := o.digitIndex - 1#2, state := .sendReg } := by
  have digit_pos : 0#2 < o.digitIndex ↔ ¬ o.digitIndex = 0#2 := by bv_omega
  have step_short : o.step < 5 ↔ ¬ o.step = 5 := by omega
  simp only [stateRule, digit_pos, step_short, ite_not]

theorem stateRule_rowSent (p : Nat) (i : Inputs) (ready : Bool) (o : Orchestrator) :
    stateRule p i ready .rowSent o =
      if o.digitIndex = 0#2 then
        if o.rowIndex = 7#3 then { o with state := .tick }
        else { o with rowIndex := o.rowIndex + 1#3, digitIndex := 3#2, state := .sendUpdate }
      else { o with digitIndex := o.digitIndex - 1#2, state := .sendUpdate } := by
  have digit_pos : 0#2 < o.digitIndex ↔ ¬ o.digitIndex = 0#2 := by bv_omega
  have row_short : o.rowIndex < 7#3 ↔ ¬ o.rowIndex = 7#3 := by bv_omega
  simp only [stateRule, digit_pos, row_short, ite_not]

/-! ### The step -/

section
variable {s t : State}

/-- With `en = 1` a step leaves in the orchestrator what the rule of the current tag and the refresh latch write. -/
theorem step_o_enabled (h : step s = .next t) (he : s.input.en = true) :
    t.o = refreshLatch s.input.refresh (stateRule s.prescaler s.input s.serReady s.o.state s.o) := by
  rw [step_o s t h, nextOrch_eq s fun e => (step_ranged s t h e).1, if_pos he]

/-- The rule of the current tag and the latch are the tables, tag by tag. -/
theorem refreshLatch_stateRule (s : State) :
    refreshLatch s.input.refresh (stateRule s.prescaler s.input s.serReady s.o.state s.o) = tableOrch s := by
  simp only [tableOrch, nextStep, nextDigitIndex, nextRowIndex, ruleRefreshPending, nextPrescaleCounter, nextSerEnable,
    nextOutValid, nextOutPayload, nextReqValid, nextRespReady, nextReqChar, nextReqRow, nextBitmap, nextSnap, successor]
  cases htag : s.o.state
  case configNext =>
    rw [stateRule_configNext]
    by_cases hd : s.o.digitIndex = 0#2 <;> by_cases hs : s.o.step = 5 <;> simp [hd, hs, refreshLatch]
  case rowSent =>
    rw [stateRule_rowSent]
    by_cases hd : s.o.digitIndex = 0#2 <;> by_cases hr : s.o.rowIndex = 7#3 <;> simp [hd, hr, refreshLatch]
  case tick => by_cases hp : s.o.refreshPending = true <;> simp [stateRule, hp, refreshLatch, htag]
  case waitForRow => by_cases hv : s.input.grespValid = true <;> simp [stateRule, hv, refreshLatch, htag]
  case sendRow => by_cases hr : s.serReady = true <;> simp [stateRule, hr, refreshLatch, htag]
  all_goals simp only [stateRule, pushSend, pushActive, pushComplete, enableSerializer, refreshLatch, htag]

/-- With `en = 1` a step leaves in the orchestrator what the tables say. -/
theorem step_table (h : step s = .next t) (he : s.input.en = true) : t.o = tableOrch s := by
  rw [step_o_enabled h he, refreshLatch_stateRule]

/-- The tag among them (40_composition.md R104). -/
theorem step_state (h : step s = .next t) (he : s.input.en = true) : t.o.state = successor s := by
  rw [step_table h he, tableOrch]

/-- With `en = 0` it resets the orchestrator (60_exceptions.md R157). -/
theorem step_o_disabled (h : step s = .next t) (he : s.input.en = false) : t.o = resetOrchestrator s.prescaler := by
  rw [step_o s t h, nextOrch_disabled s he]

/-- With `en = 0` the serializer is disabled (40_composition.md R96). -/
theorem serEn_of_disabled (he : s.input.en = false) : s.serEn = false := by rw [State.serEn, he, Bool.false_and]

/-- With `en = 1` it is enabled where the orchestrator requests it. -/
theorem serEn_of_enabled (he : s.input.en = true) : s.serEn = s.o.serEnable := by rw [State.serEn, he, Bool.true_and]

/-- With `en = 1` the serializer is ready where it is requested and idle. -/
theorem serReady_of_enabled (he : s.input.en = true) : s.serReady = (s.o.serEnable && decide (s.ser.count = 0)) := by
  rw [State.serReady, serEn_of_enabled he]

/-- With `ser_en = 0` a step resets the serializer (43_serializer.md R133). -/
theorem step_ser_disabled (h : step s = .next t) (he : s.serEn = false) : t.ser = resetSerializer s.prescaler := by
  rw [step_serRule h, serRule_of_disabled _ _ _ he]

end

/-- Settles O27: a register's table leaves it as it is in every state that is not its writer. -/
theorem eachOrchestratorRegisterHasItsWriters : Obligations.EachOrchestratorRegisterHasItsWriters := by
  intro s t he h
  rw [step_table h he]
  refine ⟨?step, ?digitIndex, ?rowIndex, ?prescaleCounter, ?serEnableSet, ?serEnableCleared, ?outValidSet,
    ?outValidCleared, ?outPayload, ?request, ?reqFields, ?bitmap, ?snap⟩
  case step => exact not_imp_comm.mp nextStep_eq
  case digitIndex => exact not_imp_comm.mp nextDigitIndex_eq
  case rowIndex => exact not_imp_comm.mp nextRowIndex_eq
  case prescaleCounter => exact not_imp_comm.mp nextPrescaleCounter_eq
  case outPayload => exact not_imp_comm.mp nextOutPayload_eq
  case bitmap => exact not_imp_comm.mp nextBitmap_eq
  case snap => exact not_imp_comm.mp nextSnap_eq
  case request =>
    intro hne
    by_contra hno
    obtain ⟨hv, hr⟩ := nextRequest_eq hno
    exact hne.elim (absurd hv) (absurd hr)
  case reqFields =>
    intro hne
    by_contra hno
    obtain ⟨hc, hr⟩ := nextReqFields_eq hno
    exact hne.elim (absurd hc) (absurd hr)
  case serEnableSet | serEnableCleared =>
    change nextSerEnable s = _ → _
    unfold nextSerEnable
    intro hset hwas
    split at hset <;> simp_all
  case outValidSet | outValidCleared =>
    change nextOutValid s = _ → _
    unfold nextOutValid
    intro hset hwas
    split at hset <;> simp_all

/-- Settles O26: what the rule of each tag leaves in the flag, and the latch after it. -/
theorem refreshFlagIsLatchedAndSetWins : Obligations.RefreshFlagIsLatchedAndSetWins := by
  intro s t he h
  rw [step_table h he]
  change (s.input.refresh || ruleRefreshPending s) = true ↔ _
  rw [Bool.or_eq_true, ruleRefreshPending]
  cases htag : s.o.state <;> simp

/-- Settles O31: the waiting branches of the two rules write nothing, and the latch nothing but the flag. -/
theorem aStallKeepsEveryRegister : Obligations.AStallKeepsEveryRegister := by
  intro s t he h hstall
  rw [step_o_enabled h he]
  rcases hstall with ⟨htag, hresp⟩ | ⟨htag, hpending⟩
  · simp only [htag, stateRule, hresp, Bool.false_eq_true, if_false, refreshLatch]
  · simp only [htag, stateRule, hpending, Bool.false_eq_true, if_false, refreshLatch]

end Sys2Proof.Machine
end

section
/-! PROOFS, family other: the invariants of a run (10_state.md R45 and those the state rules add). Reset registers meet them, what
they say of each state tag is read off once, and every step keeps them: O38 and O39. -/

namespace Sys2Proof.Machine

/-! ### Reset registers -/

theorem runInv_of_reset {t : State} (ho : t.o = resetOrchestrator t.prescaler)
    (hs : t.ser = resetSerializer t.prescaler) : RunInv t := by
  simp [RunInv, Inv, CountersInRange, IdleClockRests, RequestOnlyWhileWaiting, DisabledOnlyAtEdges, OfferOnlyWhileSending,
    IdleWhereExpected, ActiveStillOffers, OffersItsByte, RequestIsCurrent, RowSentJustAccepted, ho, hs,
    resetOrchestrator, resetSerializer]

theorem runInv_of_disabled {s t : State} (h : step s = .next t) (he : s.input.en = false) : RunInv t := by
  have hp : t.prescaler = s.prescaler := step_prescaler s t h
  refine runInv_of_reset ?_ ?_
  · rw [hp, step_o_disabled h he]
  · rw [hp, step_ser_disabled h (serEn_of_disabled he)]

/-! ### What the invariants say of each state tag -/

/-- Item 4 of R45 is one of them. -/
theorem idleClockRests_of_runInv {s : State} (hinv : RunInv s) : IdleClockRests s := hinv.1.2.1

section
variable {s : State}

/-- Away from the edges of the configuration the serializer is requested (10_state.md R45 item 7). -/
theorem serEnable_of_not_edge (hd : DisabledOnlyAtEdges s)
    (htag : s.o.state ∉ [StateTag.init, .sendReg, .tick, .sendUpdate]) : s.o.serEnable = true := by
  refine Bool.of_not_eq_false fun hf => htag ?_
  rcases hd hf with hm | ⟨e, -⟩ | ⟨e, -⟩
  · exact List.mem_append_left [StateTag.tick, .sendUpdate] hm
  · simp [e]
  · simp [e]

/-- A state that neither sends nor has just sent offers nothing (R45 item 8). -/
theorem outValid_of_silent (ho : OfferOnlyWhileSending s)
    (htag : s.o.state ∉ [StateTag.sendReg, .sendValue, .sendUpdate, .sendRow, .w4RegActive, .w4ValueActive,
      .w4UpdateActive]) : s.o.outValid = false := by
  refine Bool.of_not_eq_true fun hv => htag ?_
  rcases ho hv with hm | ⟨hm, -⟩
  · exact List.mem_append_left [StateTag.w4RegActive, .w4ValueActive, .w4UpdateActive] hm
  · exact List.mem_append_right [StateTag.sendReg, .sendValue, .sendUpdate, .sendRow] hm

/-- The request for the serializer, the offer and the count in each state of a run. -/
theorem runInv_facts (hinv : RunInv s) :
    match s.o.state with
    | .init => s.o.outValid = false ∧ s.ser.count = 0
    | .sendReg => s.ser.count = 0
    | .w4RegActive | .w4ValueActive | .w4UpdateActive =>
      s.o.serEnable = true ∧ (s.ser.count = 0 → s.o.outValid = true)
    | .w4RegComplete | .w4ValueComplete | .w4UpdateComplete => s.o.serEnable = true ∧ s.o.outValid = false
    | .sendValue | .configNext | .getRow | .waitForRow =>
      s.o.serEnable = true ∧ s.o.outValid = false ∧ s.ser.count = 0
    | .tick => s.o.outValid = false
    | .sendUpdate => s.o.serEnable = false → s.ser.count = 0
    | .sendRow => s.o.serEnable = true ∧ s.o.outValid = true ∧ s.ser.count = 0
    | .rowSent => s.o.serEnable = true ∧ s.o.outValid = false ∧ s.ser.count = 8 := by
  obtain ⟨⟨-, -, -, hd, ho⟩, ⟨hidle, hoff⟩, hactive, hbyte, -, hrow⟩ := hinv
  have enabled := serEnable_of_not_edge hd
  have silent := outValid_of_silent ho
  cases htag : s.o.state <;> simp_all
end

/-! ### What a tick leaves in the serializer -/

section
variable {s t : State} (h : step s = .next t)
include h

/-- A byte transferred is accepted: an idle clock rests low with its divider loaded (R45 item 4). -/
theorem step_ser_of_xfer (hrest : IdleClockRests s) (hx : s.xfer = true) :
    t.ser.count = 8 ∧ t.ser.clkPhase = false ∧ t.ser.prescaleCounter = t.prescaler := by
  obtain ⟨hv, hr⟩ := (xfer_eq_true_iff s).mp hx
  obtain ⟨he, hz⟩ := (serReady_eq_true_iff s).mp hr
  rw [step_prescaler s t h, step_serRule h, serRule_of_offered _ _ _ he (decide_eq_true hz) hv]
  exact ⟨rfl, hrest hz⟩

theorem step_shiftReg_of_xfer (hx : s.xfer = true) : t.ser.shiftReg = s.o.outPayload := by
  obtain ⟨hv, hr⟩ := (xfer_eq_true_iff s).mp hx
  obtain ⟨he, hz⟩ := (serReady_eq_true_iff s).mp hr
  rw [step_serRule h, serRule_of_offered _ _ _ he (decide_eq_true hz) hv]

/-- An idle serializer that takes no byte stays idle. -/
theorem step_count_of_idle (hz : s.ser.count = 0) (hx : s.xfer = false) : t.ser.count = 0 := by
  rcases Bool.eq_false_or_eq_true s.serEn with he | he
  · have hv : s.o.outValid = false := by
      rw [State.xfer, (serReady_eq_true_iff s).mpr ⟨he, hz⟩, Bool.and_true] at hx
      exact hx
    rw [step_serRule h, serRule_of_idle _ _ _ he (decide_eq_true hz) hv, hz]
  · rw [step_ser_disabled h he, resetSerializer]

end

/-- An offer that meets a ready serializer is transferred. -/
theorem xfer_of_offer {s : State} (hv : s.o.outValid = true) (hr : s.serReady = true) : s.xfer = true :=
  (xfer_eq_true_iff s).mpr ⟨hv, hr⟩

/-- Nothing is transferred where nothing is offered. -/
theorem xfer_of_no_offer {s : State} (hv : s.o.outValid = false) : s.xfer = false := by
  rw [State.xfer, hv, Bool.false_and]

/-- Nothing is transferred where the serializer is not ready. -/
theorem xfer_of_not_ready {s : State} (hr : s.serReady = false) : s.xfer = false := by
  rw [State.xfer, hr, Bool.and_false]

/-- Nothing is transferred to a serializer that is not requested. -/
theorem xfer_of_not_requested {s : State} (hs : s.o.serEnable = false) : s.xfer = false := by
  rw [State.xfer, State.serReady, State.serEn, hs, Bool.and_false, Bool.false_and, Bool.and_false]

/-- Nothing is transferred to a serializer that shifts. -/
theorem xfer_of_busy {s : State} (hz : s.ser.count ≠ 0) : s.xfer = false := by
  rw [State.xfer, State.serReady, decide_eq_false hz, Bool.and_false, Bool.and_false]

/-! ### Items 3 to 8 of R45 after a tick with `en = 1` -/

/-- A row field is at most 7 (30_encoding.md R84). -/
theorem rowField_le (row : BitVec 3) : (rowField row).toNat ≤ 7 := by
  rw [rowField, BitVec.zeroExtend, BitVec.toNat_setWidth]
  omega

/-- The request for the serializer is low after a tick that ends the configuration, or that finds it low at an edge and does
not send. -/
theorem edges_of_nextSerEnable {s : State} (hd : DisabledOnlyAtEdges s) (hf : nextSerEnable s = false) :
    (s.o.state = .configNext ∧ s.o.digitIndex = 0#2 ∧ s.o.step = 5) ∨ s.o.state = .init ∨
      (s.o.state = .tick ∧ s.o.serEnable = false ∧ s.o.step = 5 ∧ s.o.digitIndex = 3#2) := by
  have enabled := serEnable_of_not_edge hd
  unfold nextSerEnable at hf
  cases htag : s.o.state <;> simp_all

/-- A byte is on offer after a tick of the four states that offer one, and of one that waits for its transfer. -/
theorem offers_of_nextOutValid {s : State} (ho : OfferOnlyWhileSending s) (hv : nextOutValid s = true) :
    s.o.state ∈ [StateTag.sendReg, .sendValue, .sendUpdate] ∨ (s.o.state = .sendRow ∧ s.serReady = false) ∨
      (s.o.state = .waitForRow ∧ s.input.grespValid = true) := by
  have silent := outValid_of_silent ho
  unfold nextOutValid at hv
  cases htag : s.o.state <;> simp_all

section
variable {s t : State} (h : step s = .next t)
include h

theorem step_countersInRange (he : s.input.en = true) (hinv : CountersInRange s) : CountersInRange t := by
  obtain ⟨hs, ho⟩ := hinv
  constructor
  · rw [step_prescaler s t h, step_ser s t h]
    rcases nextSer_cases s fun _ => hs with ⟨-, e⟩ | ⟨-, -, -, e⟩ | ⟨-, -, -, e⟩ | ⟨-, -, -, e⟩ | ⟨-, -, -, -, e⟩ |
      ⟨-, -, -, -, e⟩ <;> rw [e]
    case inr.inl | inr.inr.inl => exact hs
    case inr.inr.inr.inl => exact le_trans (Nat.sub_le _ _) hs
    all_goals exact le_rfl
  · rw [step_table h he, step_prescaler s t h]
    change nextPrescaleCounter s = _
    unfold nextPrescaleCounter
    split
    · rfl
    · exact ho

theorem step_idleClockRests (hinv : IdleClockRests s) : IdleClockRests t := by
  rw [IdleClockRests, step_prescaler s t h, step_ser s t h]
  rcases nextSer_cases s fun e => (step_ranged s t h e).2 with ⟨-, e⟩ | ⟨-, -, -, e⟩ | ⟨-, -, -, e⟩ | ⟨-, hz, -, e⟩ |
    ⟨-, hz, -, -, e⟩ | ⟨-, -, -, -, e⟩ <;> rw [e]
  case inr.inl => exact hinv
  case inr.inr.inl => exact fun hz : (8 : Fin 9) = 0 => absurd hz (by decide)
  case inr.inr.inr.inl | inr.inr.inr.inr.inl => exact fun hz' => absurd hz' hz
  all_goals exact fun _ => ⟨rfl, rfl⟩

/-- Only GetRow makes a request, and WaitForRow withdraws it as it leaves. -/
theorem step_requestOnlyWhileWaiting (he : s.input.en = true) (hinv : RequestOnlyWhileWaiting s) :
    RequestOnlyWhileWaiting t := by
  obtain ⟨hrow, hreq, hwait⟩ := hinv
  have hfield := rowField_le s.o.rowIndex
  rw [RequestOnlyWhileWaiting, step_table h he]
  cases htag : s.o.state <;> simp_all [tableOrch, nextReqRow, nextReqValid, nextRespReady, successor]

theorem step_disabledOnlyAtEdges (he : s.input.en = true) (hd : DisabledOnlyAtEdges s) (ho : OfferOnlyWhileSending s) :
    DisabledOnlyAtEdges t := by
  rw [DisabledOnlyAtEdges, step_table h he]
  intro hf
  rcases edges_of_nextSerEnable hd hf with ⟨htag, hdigit, hstep⟩ | htag | ⟨htag, -, hstep, hdigit⟩
  · exact .inr (.inl (by simp [tableOrch, successor, nextStep, nextDigitIndex, htag, hdigit, hstep]))
  · exact .inl (by simp [tableOrch, successor, htag])
  · have hv : s.o.outValid = false := outValid_of_silent ho (by simp [htag])
    cases hp : s.o.refreshPending
    · exact .inr (.inl (by simp [tableOrch, successor, nextStep, nextDigitIndex, htag, hp, hstep, hdigit]))
    · exact .inr (.inr (by simp [tableOrch, successor, nextOutValid, nextRowIndex, nextDigitIndex, htag, hp, hv]))

/-- A ready serializer has just accepted a byte after the tick, or is still idle. -/
theorem step_ser_of_ready (hrest : IdleClockRests s) (hr : s.serReady = true) :
    t.ser.count = 0 ∨ (t.ser.count = 8 ∧ t.ser.clkPhase = false ∧ t.ser.prescaleCounter = t.prescaler) := by
  cases hx : s.xfer
  · exact .inl (step_count_of_idle h ((serReady_eq_true_iff s).mp hr).2 hx)
  · exact .inr (step_ser_of_xfer h hrest hx)

theorem step_offerOnlyWhileSending (he : s.input.en = true) (hrest : IdleClockRests s) (ho : OfferOnlyWhileSending s) :
    OfferOnlyWhileSending t := by
  rw [OfferOnlyWhileSending, step_table h he]
  intro hv
  rcases offers_of_nextOutValid ho hv with hm | ⟨htag, hr⟩ | ⟨htag, hresp⟩
  · simp only [List.mem_cons, List.not_mem_nil, or_false] at hm
    cases hr : s.serReady
    · refine .inl ?_
      rcases hm with htag | htag | htag <;> simp [tableOrch, successor, htag, hr]
    · refine .inr ⟨?_, step_ser_of_ready h hrest hr⟩
      rcases hm with htag | htag | htag <;> simp [tableOrch, successor, htag, hr]
  · exact .inl (by simp [tableOrch, successor, htag, hr])
  · exact .inl (by simp [tableOrch, successor, htag, hresp])

/-- The words "first" in items 7 and 8. -/
theorem step_firstTicksOnly (he : s.input.en = true) (hd : DisabledOnlyAtEdges s) : FirstTicksOnly s t := by
  rw [FirstTicksOnly, step_table h he]
  refine ⟨fun hm hst => ?_, fun hst hf => ?_, fun hst hf => ?_⟩
  · rw [← hst] at hm
    simp only [List.mem_cons, List.not_mem_nil, or_false] at hm
    rcases hm with htag | htag | htag <;> simp [tableOrch, nextOutValid, htag]
  · rcases edges_of_nextSerEnable hd hf with ⟨htag, hend⟩ | htag | ⟨htag, hoff, -⟩
    · simp [tableOrch, successor, htag, hend] at hst
    · simp [tableOrch, successor, htag] at hst
    · exact ⟨htag, hoff⟩
  · rcases edges_of_nextSerEnable hd hf with ⟨htag, -⟩ | htag | ⟨htag, hoff, -⟩
    · exact .inl htag
    · simp [tableOrch, successor, htag] at hst
    · exact .inr ⟨htag, hoff⟩

end

/-- Settles O38: each item has its lemma for `en = 1`, and with `en = 0` the step leaves reset registers. -/
theorem everyStepKeepsTheInvariants : Obligations.EveryStepKeepsTheInvariants := by
  intro s t hinv h
  rcases Bool.eq_false_or_eq_true s.input.en with he | he
  · obtain ⟨hcount, hrest, hreq, hd, ho⟩ := hinv
    exact ⟨⟨step_countersInRange h he hcount, step_idleClockRests h hrest, step_requestOnlyWhileWaiting h he hreq,
      step_disabledOnlyAtEdges h he hd ho, step_offerOnlyWhileSending h he hrest ho⟩, step_firstTicksOnly h he hd⟩
  · refine ⟨(runInv_of_disabled h he).1, ?_⟩
    simp [FirstTicksOnly, step_o_disabled h he, resetOrchestrator]

/-! ### What the state rules add -/

/-- The successor table of 40_composition.md R104 read backwards: how each tag is entered or kept. -/
theorem successor_backwards (s : State) :
    match successor s with
    | .init => False
    | .sendReg =>
      s.o.state = .init ∨ (s.o.state = .sendReg ∧ s.serReady = false) ∨
        (s.o.state = .configNext ∧ ¬ (s.o.digitIndex = 0#2 ∧ s.o.step = 5))
    | .w4RegActive => (s.o.state = .sendReg ∨ s.o.state = .w4RegActive) ∧ s.serReady = true
    | .w4RegComplete => (s.o.state = .w4RegActive ∨ s.o.state = .w4RegComplete) ∧ s.serReady = false
    | .sendValue => (s.o.state = .w4RegComplete ∧ s.serReady = true) ∨ (s.o.state = .sendValue ∧ s.serReady = false)
    | .w4ValueActive => (s.o.state = .sendValue ∨ s.o.state = .w4ValueActive) ∧ s.serReady = true
    | .w4ValueComplete => (s.o.state = .w4ValueActive ∨ s.o.state = .w4ValueComplete) ∧ s.serReady = false
    | .configNext => s.o.state = .w4ValueComplete ∧ s.serReady = true
    | .tick =>
      (s.o.state = .configNext ∧ s.o.digitIndex = 0#2 ∧ s.o.step = 5) ∨
        (s.o.state = .tick ∧ s.o.refreshPending = false) ∨
        (s.o.state = .rowSent ∧ s.o.digitIndex = 0#2 ∧ s.o.rowIndex = 7#3)
    | .sendUpdate =>
      (s.o.state = .tick ∧ s.o.refreshPending = true) ∨ (s.o.state = .sendUpdate ∧ s.serReady = false) ∨
        (s.o.state = .rowSent ∧ ¬ (s.o.digitIndex = 0#2 ∧ s.o.rowIndex = 7#3))
    | .w4UpdateActive => (s.o.state = .sendUpdate ∨ s.o.state = .w4UpdateActive) ∧ s.serReady = true
    | .w4UpdateComplete => (s.o.state = .w4UpdateActive ∨ s.o.state = .w4UpdateComplete) ∧ s.serReady = false
    | .getRow => s.o.state = .w4UpdateComplete ∧ s.serReady = true
    | .waitForRow => s.o.state = .getRow ∨ (s.o.state = .waitForRow ∧ s.input.grespValid = false)
    | .sendRow =>
      (s.o.state = .waitForRow ∧ s.input.grespValid = true) ∨ (s.o.state = .sendRow ∧ s.serReady = false)
    | .rowSent => s.o.state = .sendRow ∧ s.serReady = true := by
  unfold successor
  cases htag : s.o.state
  case init | getRow => simp
  case configNext => by_cases hend : s.o.digitIndex = 0#2 ∧ s.o.step = 5 <;> simp [hend]
  case rowSent => by_cases hend : s.o.digitIndex = 0#2 ∧ s.o.rowIndex = 7#3 <;> simp [hend]
  case tick => cases hp : s.o.refreshPending <;> simp
  case waitForRow => cases hresp : s.input.grespValid <;> simp
  all_goals cases hr : s.serReady <;> simp

/-- The states that expect the serializer idle are entered, and kept, in ticks that find it idle and transfer nothing. -/
theorem quiet_of_successor {s : State} (hinv : RunInv s)
    (hm : successor s ∈ [StateTag.init, .sendReg, .sendValue, .configNext, .getRow, .waitForRow, .sendRow]) :
    s.ser.count = 0 ∧ s.xfer = false := by
  have facts := runInv_facts hinv
  have back := successor_backwards s
  have idle (hr : s.serReady = true) : s.ser.count = 0 := ((serReady_eq_true_iff s).mp hr).2
  simp only [List.mem_cons, List.not_mem_nil, or_false] at hm
  rcases hm with hst | hst | hst | hst | hst | hst | hst <;> simp only [hst] at back
  · rcases back with htag | ⟨htag, hr⟩ | ⟨htag, -⟩ <;> simp only [htag] at facts
    · exact ⟨facts.2, xfer_of_no_offer facts.1⟩
    · exact ⟨facts, xfer_of_not_ready hr⟩
    · exact ⟨facts.2.2, xfer_of_no_offer facts.2.1⟩
  · rcases back with ⟨htag, hr⟩ | ⟨htag, hr⟩ <;> simp only [htag] at facts
    · exact ⟨idle hr, xfer_of_no_offer facts.2⟩
    · exact ⟨facts.2.2, xfer_of_no_offer facts.2.1⟩
  · obtain ⟨htag, hr⟩ := back
    simp only [htag] at facts
    exact ⟨idle hr, xfer_of_no_offer facts.2⟩
  · obtain ⟨htag, hr⟩ := back
    simp only [htag] at facts
    exact ⟨idle hr, xfer_of_no_offer facts.2⟩
  · rcases back with htag | ⟨htag, hr⟩ <;> simp only [htag] at facts
    · exact ⟨facts.2.2, xfer_of_no_offer facts.2.1⟩
    · exact ⟨facts.2.2, xfer_of_no_offer facts.2.1⟩
  · rcases back with ⟨htag, hr⟩ | ⟨htag, hr⟩ <;> simp only [htag] at facts
    · exact ⟨facts.2.2, xfer_of_no_offer facts.2.1⟩
    · exact ⟨facts.2.2, xfer_of_not_ready hr⟩

section
variable {s t : State} (h : step s = .next t) (he : s.input.en = true) (hinv : RunInv s)
include h he hinv

theorem step_idleWhereExpected : IdleWhereExpected t := by
  have facts := runInv_facts hinv
  obtain ⟨⟨-, -, -, hd, -⟩, ⟨-, hidle⟩, -⟩ := id hinv
  rw [IdleWhereExpected, step_table h he]
  constructor
  · intro hm
    obtain ⟨hz, hx⟩ := quiet_of_successor hinv hm
    exact step_count_of_idle h hz hx
  · intro hf
    rcases edges_of_nextSerEnable hd hf with ⟨htag, -⟩ | htag | ⟨htag, hoff, -⟩ <;> simp only [htag] at facts
    · exact step_count_of_idle h facts.2.2 (xfer_of_no_offer facts.2.1)
    · exact step_count_of_idle h facts.2 (xfer_of_no_offer facts.1)
    · exact step_count_of_idle h (hidle hoff) (xfer_of_no_offer facts)

/-- An Active state is entered with the offer made in the same tick; it is kept only in the tick of the transfer, which leaves
the serializer busy. -/
theorem step_activeStillOffers : ActiveStillOffers t := by
  have facts := runInv_facts hinv
  have back := successor_backwards s
  have busy (hr : s.serReady = true) (hv : s.o.outValid = true) : t.ser.count ≠ 0 := by
    rw [(step_ser_of_xfer h (idleClockRests_of_runInv hinv) (xfer_of_offer hv hr)).1]
    decide
  have idle (hr : s.serReady = true) : s.ser.count = 0 := ((serReady_eq_true_iff s).mp hr).2
  intro hm hz
  rw [step_table h he] at hm ⊢
  change successor s ∈ _ at hm
  change nextOutValid s = true
  simp only [List.mem_cons, List.not_mem_nil, or_false] at hm
  rcases hm with hst | hst | hst <;> simp only [hst] at back <;> obtain ⟨htag | htag, hr⟩ := back
  case inl.inl | inr.inl.inl | inr.inr.inl => rw [nextOutValid, htag]
  all_goals
    simp only [htag] at facts
    exact absurd hz (busy hr (facts.2 (idle hr)))

/-- Each sending state offers its own byte as it is entered, and writes it again as long as it is kept; a state that sends
later offers nothing as it is entered. -/
theorem step_offersItsByte : OffersItsByte t := by
  have facts := runInv_facts hinv
  have back := successor_backwards s
  obtain ⟨-, -, -, ⟨-, hreg, -, hval, -, hupd, hrow⟩, -, -⟩ := hinv
  have silent (hm : s.o.state ∉ [StateTag.sendReg, .sendValue, .sendUpdate, .w4RegActive, .w4ValueActive,
      .w4UpdateActive, .waitForRow, .sendRow]) (hv : s.o.outValid = false) : ¬ nextOutValid s = true := by
    rw [nextOutValid_eq hm, hv]
    exact Bool.false_ne_true
  rw [OffersItsByte, step_table h he]
  change (successor s = _ → nextOutValid s = _ → nextOutPayload s = cfgRead (nextStep s) .reg) ∧
    (successor s = _ → nextOutPayload s = cfgRead (nextStep s) .reg) ∧ (successor s = _ → nextOutValid s = false) ∧
    (successor s = _ → nextOutPayload s = cfgRead (nextStep s) .val) ∧
    (successor s = _ → nextOutValid s = _ → nextOutPayload s = rowSelectByte (nextRowIndex s)) ∧
    (successor s = _ → nextOutPayload s = rowSelectByte (nextRowIndex s)) ∧
    (successor s = _ → nextOutValid s = true ∧ nextOutPayload s = nextBitmap s)
  refine ⟨fun hst hv => ?_, fun hst => ?_, fun hst => ?_, fun hst => ?_, fun hst hv => ?_, fun hst => ?_, fun hst => ?_⟩
  all_goals simp only [hst] at back
  case refine_1 =>
    rcases back with htag | ⟨htag, -⟩ | ⟨htag, -⟩ <;> simp only [htag] at facts
    · exact absurd hv (silent (by simp [htag]) facts.1)
    · simp [nextOutPayload, nextStep, htag]
    · exact absurd hv (silent (by simp [htag]) facts.2.1)
  case refine_2 => obtain ⟨htag | htag, -⟩ := back <;> simp [nextOutPayload, nextStep, htag, hreg]
  case refine_3 =>
    rcases back with ⟨htag, -⟩ | ⟨htag, hr⟩ <;> simp only [htag] at facts
    · exact Bool.of_not_eq_true (silent (by simp [htag]) facts.2)
    · simp [serReady_of_enabled he, facts] at hr
  case refine_4 => obtain ⟨htag | htag, -⟩ := back <;> simp [nextOutPayload, nextStep, htag, hval]
  case refine_5 =>
    rcases back with ⟨htag, -⟩ | ⟨htag, -⟩ | ⟨htag, -⟩ <;> simp only [htag] at facts
    · exact absurd hv (silent (by simp [htag]) facts)
    · simp [nextOutPayload, nextRowIndex, htag]
    · exact absurd hv (silent (by simp [htag]) facts.2.1)
  case refine_6 => obtain ⟨htag | htag, -⟩ := back <;> simp [nextOutPayload, nextRowIndex, htag, hupd]
  case refine_7 =>
    rcases back with ⟨htag, hresp⟩ | ⟨htag, hr⟩
    · simp [nextOutValid, nextOutPayload, nextBitmap, htag, hresp]
    · simp [nextOutValid, nextOutPayload, nextBitmap, htag, hr, hrow]

/-- GetRow makes the request, and WaitForRow keeps it until the response. -/
theorem step_requestIsCurrent : RequestIsCurrent t := by
  obtain ⟨-, -, -, -, hreq, -⟩ := hinv
  rw [RequestIsCurrent, step_table h he]
  intro hst
  have back := successor_backwards s
  rw [show successor s = .waitForRow from hst] at back
  rcases back with htag | ⟨htag, hresp⟩
  · simp [tableOrch, htag, nextReqValid, nextReqChar, nextReqRow, nextSnap, nextDigitIndex, nextRowIndex]
  · simp [tableOrch, htag, nextReqValid, nextReqChar, nextReqRow, nextSnap, nextDigitIndex, nextRowIndex, hresp, hreq htag]

/-- SendRow is left in the tick of the transfer. -/
theorem step_rowSentJustAccepted : RowSentJustAccepted t := by
  intro hst
  have facts := runInv_facts hinv
  have back := successor_backwards s
  rw [step_state h he] at hst
  simp only [hst] at back
  obtain ⟨htag, hr⟩ := back
  simp only [htag] at facts
  exact step_ser_of_xfer h (idleClockRests_of_runInv hinv) (xfer_of_offer facts.2.1 hr)

end

/-- Settles O39: item by item for `en = 1`; with `en = 0` the step leaves reset registers. -/
theorem everyStepKeepsTheRunInvariants : Obligations.EveryStepKeepsTheRunInvariants := by
  intro s t hinv h
  rcases Bool.eq_false_or_eq_true s.input.en with he | he
  · exact ⟨(everyStepKeepsTheInvariants s t hinv.1 h).1, step_idleWhereExpected h he hinv, step_activeStillOffers h he hinv,
      step_offersItsByte h he hinv, step_requestIsCurrent h he hinv, step_rowSentJustAccepted h he hinv⟩
  · exact runInv_of_disabled h he

end Sys2Proof.Machine
end

section
/-! PROOFS, family other: the ticks still to go. A byte takes `16(p + 1)` shifting ticks (O35), and every tick of a run brings the
machine one tick nearer to Tick or WaitForRow (O36). -/

namespace Sys2Proof.Machine

/-! ### The byte in the serializer (43_serializer.md R140, R141) -/

theorem busyTicks_of_idle {s : State} (hz : s.ser.count = 0) : busyTicks s = 0 := by
  rw [busyTicks, if_pos hz]

/-- With the clock low, two half-periods a bit are to come, but for the current one. -/
theorem busyTicks_of_clock_low {s : State} {n : Nat} (hn : s.ser.count.val = n + 1) (hc : s.ser.clkPhase = false) :
    busyTicks s = s.ser.prescaleCounter + 1 + (2 * n + 1) * (s.prescaler + 1) := by
  have hz : s.ser.count ≠ 0 := fun e => by simp [e] at hn
  rw [busyTicks, if_neg hz, hc, hn]
  rfl

/-- With the clock high, the first half of the current bit is over as well. -/
theorem busyTicks_of_clock_high {s : State} {n : Nat} (hn : s.ser.count.val = n + 1) (hc : s.ser.clkPhase = true) :
    busyTicks s = s.ser.prescaleCounter + 1 + 2 * n * (s.prescaler + 1) := by
  have hz : s.ser.count ≠ 0 := fun e => by simp [e] at hn
  rw [busyTicks, if_neg hz, hc, hn]
  rfl

/-- A byte just accepted has all its shifting ticks to come. -/
theorem busyTicks_of_just_accepted {s : State}
    (hs : s.ser.count = 8 ∧ s.ser.clkPhase = false ∧ s.ser.prescaleCounter = s.prescaler) :
    busyTicks s = byteTicks s.prescaler := by
  obtain ⟨hcount, hclk, hdiv⟩ := hs
  have hn : s.ser.count.val = 7 + 1 := congrArg Fin.val hcount
  rw [busyTicks_of_clock_low hn hclk, hdiv, byteTicks]
  ring

theorem exists_count_eq_succ {s : State} (hz : s.ser.count ≠ 0) : ∃ n, s.ser.count.val = n + 1 :=
  Nat.exists_eq_add_one.mpr (Nat.pos_of_ne_zero (Fin.val_ne_of_ne hz))

theorem busyTicks_eq_zero_iff (s : State) : busyTicks s = 0 ↔ s.ser.count = 0 := by
  refine ⟨fun hb => Classical.byContradiction fun hz => ?_, busyTicks_of_idle⟩
  obtain ⟨n, hn⟩ := exists_count_eq_succ hz
  cases hc : s.ser.clkPhase
  · rw [busyTicks_of_clock_low hn hc] at hb
    omega
  · rw [busyTicks_of_clock_high hn hc] at hb
    omega

section
variable {s t : State} (h : step s = .next t)
include h

theorem step_busyTicks_of_xfer (hrest : IdleClockRests s) (hx : s.xfer = true) : busyTicks t = byteTicks s.prescaler := by
  rw [← step_prescaler s t h]
  exact busyTicks_of_just_accepted (step_ser_of_xfer h hrest hx)

/-- Dividing, and either edge, takes one tick off. -/
theorem step_busyTicks_of_shifting (he : s.serEn = true) (hz : s.ser.count ≠ 0) : busyTicks t + 1 = busyTicks s := by
  obtain ⟨n, hn⟩ := exists_count_eq_succ hz
  have hp := step_prescaler s t h
  have hser := step_ser s t h
  rcases nextSer_cases s fun e => (step_ranged s t h e).2 with ⟨e, -⟩ | ⟨-, e, -⟩ | ⟨-, e, -⟩ | ⟨-, -, hdiv, e⟩ |
    ⟨-, -, hdiv, hclk, e⟩ | ⟨-, -, hdiv, hclk, e⟩
  · exact absurd he (Bool.eq_false_iff.mp e)
  · exact absurd e hz
  · exact absurd e hz
  · simp only [busyTicks, hser, hp, e, hz, if_false]
    omega
  · rw [e] at hser
    have hn' : t.ser.count.val = n + 1 := by rw [hser, hn]
    have hclk' : t.ser.clkPhase = true := by rw [hser]
    rw [busyTicks_of_clock_high hn' hclk', busyTicks_of_clock_low hn hclk, hser, hp, hdiv]
    ring
  · rw [e] at hser
    have hclk' : t.ser.clkPhase = false := by rw [hser]
    have hn' : t.ser.count.val = n := by
      rw [hser]
      exact Nat.succ_injective ((countDown_val_add_one hz).trans hn)
    rw [busyTicks_of_clock_high hn hclk, hdiv]
    cases n with
    | zero => rw [busyTicks_of_idle (Fin.ext hn'), Nat.mul_zero, Nat.zero_mul]
    | succ m =>
      rw [busyTicks_of_clock_low hn' hclk', hser, hp]
      ring

end

/-- Settles O35: the accept, the shifting ticks and the idle ones. -/
theorem aByteTakesSixteenHalfPeriods : Obligations.AByteTakesSixteenHalfPeriods := by
  intro s t ⟨_, hrest, _⟩ he hs h
  have hen : s.serEn = true := (serEn_eq_true_iff s).mpr ⟨he, hs⟩
  refine ⟨fun hv hz => ?_, fun hz => step_busyTicks_of_shifting h hen hz, busyTicks_eq_zero_iff s⟩
  have hx : s.xfer = true := xfer_of_offer hv ((serReady_eq_true_iff s).mpr ⟨hen, hz⟩)
  rw [step_busyTicks_of_xfer h hrest hx, byteTicks]

/-! ### The way to rest -/

/-- An entry before the last is followed by the next one. -/
theorem nextEntry_val : ∀ step : Fin 6, step ≠ 5 → (nextEntry step).val = step.val + 1 := by decide

/-- ConfigNext before the end leaves one pair fewer. -/
theorem pairsAfter_of_configNext {s t : State} (h : step s = .next t) (he : s.input.en = true)
    (htag : s.o.state = .configNext) (hend : ¬ (s.o.digitIndex = 0#2 ∧ s.o.step = 5)) :
    pairsAfter t + 1 = pairsAfter s := by
  have hstep := s.o.step.isLt
  rw [pairsAfter, pairsAfter, step_table h he]
  by_cases hd : s.o.digitIndex = 0#2
  · have hs : s.o.step ≠ 5 := fun hs => hend ⟨hd, hs⟩
    have hval := nextEntry_val s.o.step hs
    simp [tableOrch, nextStep, nextDigitIndex, htag, hd, hs, hval]
    omega
  · simp [tableOrch, nextStep, nextDigitIndex, htag, hd]
    bv_omega

/-- At the end there is no pair left. -/
theorem pairsAfter_of_end {s : State} (hend : s.o.digitIndex = 0#2 ∧ s.o.step = 5) : pairsAfter s = 0 := by
  rw [pairsAfter, hend.1, hend.2]
  rfl

/-- The other states of the configuration keep the number of pairs. -/
theorem pairsAfter_of_push {s t : State} (h : step s = .next t) (he : s.input.en = true)
    (htag : s.o.state ∉ [StateTag.init, .configNext, .tick, .rowSent]) : pairsAfter t = pairsAfter s := by
  have hstep : nextStep s = s.o.step := nextStep_eq (by simp_all)
  rw [pairsAfter, pairsAfter, step_table h he, tableOrch, hstep, nextDigitIndex_eq htag]

/-- The four kinds of tick with `en = 1`: the serializer is not requested, is ready without an offer, accepts one, or shifts.
For each, what the orchestrator sees and what is left of the byte. -/
theorem step_kinds {s t : State} (hinv : RunInv s) (h : step s = .next t) (he : s.input.en = true) :
    (s.o.serEnable = false ∧ s.ser.count = 0 ∧ s.serReady = false ∧ t.ser.count = 0) ∨
    (s.o.serEnable = true ∧ s.ser.count = 0 ∧ s.serReady = true ∧ s.o.outValid = false ∧ t.ser.count = 0) ∨
    (s.o.serEnable = true ∧ s.ser.count = 0 ∧ s.serReady = true ∧ s.o.outValid = true ∧ t.ser.count ≠ 0 ∧
      busyTicks t = byteTicks s.prescaler) ∨
    (s.o.serEnable = true ∧ s.ser.count ≠ 0 ∧ s.serReady = false ∧ busyTicks t + 1 = busyTicks s) := by
  have ready := serReady_of_enabled he
  obtain ⟨⟨-, hrest, -⟩, ⟨-, hidle⟩, -⟩ := hinv
  cases hs : s.o.serEnable
  · have hz := hidle hs
    exact .inl ⟨rfl, hz, by rw [ready, hs, Bool.false_and], step_count_of_idle h hz (xfer_of_not_requested hs)⟩
  by_cases hz : s.ser.count = 0
  · have hr : s.serReady = true := by rw [ready, hs, decide_eq_true hz, Bool.and_self]
    cases hv : s.o.outValid
    · exact .inr (.inl ⟨rfl, hz, hr, rfl, step_count_of_idle h hz (xfer_of_no_offer hv)⟩)
    · have hx : s.xfer = true := xfer_of_offer hv hr
      have hcount : t.ser.count ≠ 0 := by
        rw [(step_ser_of_xfer h hrest hx).1]
        decide
      exact .inr (.inr (.inl ⟨rfl, hz, hr, rfl, hcount, step_busyTicks_of_xfer h hrest hx⟩))
  · refine .inr (.inr (.inr ⟨rfl, hz, ?_, step_busyTicks_of_shifting h (by rw [serEn_of_enabled he, hs]) hz⟩))
    rw [ready, decide_eq_false hz, Bool.and_false]

section
variable {s t : State} (hinv : RunInv s) (h : step s = .next t) (he : s.input.en = true)
include hinv h he

/-- In the states of the configuration: each of the four kinds of tick moves the byte or the state on. -/
theorem ticksToRest_configuration (hm : s.o.state ∈ configStates) : ticksToRest t + 1 = ticksToRest s := by
  have facts := runInv_facts hinv
  have hp := step_prescaler s t h
  have ht := step_table h he
  have pairs := pairsAfter_of_push h he
  have kinds := step_kinds hinv h he
  cases htag : s.o.state <;> simp only [htag] at facts
  case init =>
    simp [ticksToRest, pairsAfter, htag, ht, hp, tableOrch, successor, nextOutValid, nextDigitIndex, nextStep, facts.1]
    omega
  case configNext =>
    by_cases hend : s.o.digitIndex = 0#2 ∧ s.o.step = 5
    · simp [ticksToRest, htag, ht, tableOrch, successor, hend, pairsAfter_of_end hend]
    · have hpairs := pairsAfter_of_configNext h he htag hend
      simp [ticksToRest, htag, ht, hp, tableOrch, successor, nextOutValid, hend, facts.2.1, ← hpairs]
      ring
  case tick | rowSent => simp [htag] at hm
  all_goals specialize pairs (by simp [htag])
  case sendReg =>
    rcases kinds with ⟨hs, hz, hr, hz'⟩ | ⟨hs, hz, hr, hv, hz'⟩ | ⟨hs, hz, hr, hv, hz', hb⟩ | ⟨-, hz, -⟩
    · simp [ticksToRest, htag, ht, hp, tableOrch, successor, nextOutValid, nextSerEnable, pairs, hs, hr]
      omega
    · simp [ticksToRest, htag, ht, hp, tableOrch, successor, pairs, hr, hs, hv, hz']
      omega
    · simp [ticksToRest, htag, ht, hp, tableOrch, successor, pairs, hr, hs, hv, hz', hb]
      omega
    · exact absurd facts hz
  case w4RegActive | w4ValueActive =>
    rcases kinds with ⟨hs, -⟩ | ⟨-, hz, -, hv, -⟩ | ⟨-, hz, hr, -, hz', hb⟩ | ⟨-, hz, hr, hb⟩
    · simp [hs] at facts
    · simp [hz, hv] at facts
    · simp [ticksToRest, htag, ht, hp, tableOrch, successor, pairs, hr, hz, hz', hb]
      omega
    · simp [ticksToRest, htag, ht, hp, tableOrch, successor, pairs, hr, hz]
      omega
  case w4RegComplete | w4ValueComplete =>
    rcases kinds with ⟨hs, -⟩ | ⟨-, hz, hr, -, hz'⟩ | ⟨-, -, -, hv, -⟩ | ⟨-, hz, hr, hb⟩
    · simp [hs] at facts
    · simp [ticksToRest, htag, ht, hp, tableOrch, successor, pairs, hr, busyTicks_of_idle hz]
      omega
    · simp [hv] at facts
    · simp [ticksToRest, htag, ht, hp, tableOrch, successor, pairs, hr]
      omega
  case sendValue =>
    rcases kinds with ⟨hs, -⟩ | ⟨-, hz, hr, -, hz'⟩ | ⟨-, -, -, hv, -⟩ | ⟨-, hz, -⟩
    · simp [hs] at facts
    · simp [ticksToRest, htag, ht, hp, tableOrch, successor, pairs, hr, hz']
      omega
    · simp [hv] at facts
    · exact absurd facts.2.2 hz
  all_goals simp [htag] at hm

/-- In the states of a frame, where SendUpdate waits for the bitmap before to be shifted out. -/
theorem ticksToRest_frame (hm : s.o.state ∈ frameStates) (hwait : s.o.state ≠ .waitForRow) :
    ticksToRest t + 1 = ticksToRest s := by
  have facts := runInv_facts hinv
  have hp := step_prescaler s t h
  have ht := step_table h he
  have kinds := step_kinds hinv h he
  cases htag : s.o.state <;> simp only [htag] at facts
  case sendUpdate =>
    rcases kinds with ⟨hs, hz, hr, hz'⟩ | ⟨hs, hz, hr, hv, hz'⟩ | ⟨hs, hz, hr, hv, hz', hb⟩ | ⟨hs, hz, hr, hb⟩
    · simp [ticksToRest, htag, ht, hp, tableOrch, successor, nextOutValid, nextSerEnable, hs, hr, hz, hz']
    · simp [ticksToRest, htag, ht, hp, tableOrch, successor, hr, hs, hv, hz, hz']
    · simp [ticksToRest, htag, ht, tableOrch, successor, hr, hs, hv, hz, hz', hb]
    · by_cases hz' : t.ser.count = 0
      · rw [busyTicks_of_idle hz'] at hb
        simp [ticksToRest, htag, ht, hp, tableOrch, successor, nextOutValid, nextSerEnable, hr, hz, hz', ← hb]
        omega
      · simp [ticksToRest, htag, ht, hp, tableOrch, successor, hr, hz, hz', ← hb]
        omega
  case w4UpdateActive =>
    rcases kinds with ⟨hs, -⟩ | ⟨-, hz, -, hv, -⟩ | ⟨-, hz, hr, -, hz', hb⟩ | ⟨-, hz, hr, hb⟩
    · simp [hs] at facts
    · simp [hz, hv] at facts
    · simp [ticksToRest, htag, ht, tableOrch, successor, hr, hz, hz', hb]
    · simp [ticksToRest, htag, ht, tableOrch, successor, hr, hz, ← hb]
  case w4UpdateComplete =>
    rcases kinds with ⟨hs, -⟩ | ⟨-, hz, hr, -, hz'⟩ | ⟨-, -, -, hv, -⟩ | ⟨-, hz, hr, hb⟩
    · simp [hs] at facts
    · simp [ticksToRest, htag, ht, tableOrch, successor, hr, busyTicks_of_idle hz]
    · simp [hv] at facts
    · simp [ticksToRest, htag, ht, tableOrch, successor, hr]
      omega
  case getRow => simp [ticksToRest, htag, ht, tableOrch, successor]
  case waitForRow => exact absurd htag hwait
  case sendRow =>
    have hr : s.serReady = true := by simp [serReady_of_enabled he, facts]
    simp [ticksToRest, htag, ht, hp, tableOrch, successor, nextDigitIndex, nextRowIndex, hr]
    split_ifs <;> omega
  case rowSent =>
    rcases kinds with ⟨hs, -⟩ | ⟨-, hz, -⟩ | ⟨-, hz, -⟩ | ⟨-, hz, hr, hb⟩
    · simp [hs] at facts
    · simp [hz] at facts
    · simp [hz] at facts
    · obtain ⟨-, -, -, -, -, hjust⟩ := id hinv
      have hbusy := busyTicks_of_just_accepted (hjust htag)
      have hz' : t.ser.count ≠ 0 := fun hz' => by
        rw [busyTicks_of_idle hz', hbusy, byteTicks] at hb
        omega
      by_cases hend : s.o.digitIndex = 0#2 ∧ s.o.rowIndex = 7#3
      · simp [ticksToRest, htag, ht, tableOrch, successor, hend]
      · simp [ticksToRest, htag, ht, hp, tableOrch, successor, hend, hz']
        omega
  all_goals simp [htag] at hm

end

/-- In every other state there is at least this tick to go. -/
theorem ticksToRest_pos {s : State} (htick : s.o.state ≠ .tick) (hwait : s.o.state ≠ .waitForRow) :
    0 < ticksToRest s := by
  unfold ticksToRest
  cases htag : s.o.state
  case tick => exact absurd htag htick
  case waitForRow => exact absurd htag hwait
  case sendReg | w4RegActive | w4ValueActive | sendUpdate | w4UpdateActive | sendRow | rowSent =>
    dsimp only
    split_ifs <;> omega
  all_goals
    dsimp only
    omega

theorem ticksToRest_eq_zero_iff (s : State) : ticksToRest s = 0 ↔ s.o.state = .tick ∨ s.o.state = .waitForRow := by
  refine ⟨fun hzero => ?_, fun hrest => ?_⟩
  · by_contra hmove
    obtain ⟨htick, hwait⟩ := not_or.mp hmove
    exact absurd hzero (Nat.ne_of_gt (ticksToRest_pos htick hwait))
  · rcases hrest with htag | htag <;> simp only [ticksToRest, htag]

/-- Settles O36: each half of the way has its lemma, and the sums of the other states have a term above 0. -/
theorem everyTickIsOneTickNearerToRest : Obligations.EveryTickIsOneTickNearerToRest := by
  intro s t hinv he h
  constructor
  · intro htick hwait
    by_cases hm : s.o.state ∈ configStates
    · exact ticksToRest_configuration hinv h he hm
    · refine ticksToRest_frame hinv h he ?_ hwait
      cases htag : s.o.state <;> simp_all
  · exact ticksToRest_eq_zero_iff s

end Sys2Proof.Machine
end

section
/-! PROOFS, family other: the wire. What one sample does to the receiver, the bytes read as the trace decoded (O47), and the byte
in flight between the transfer and the receiver (O40). -/

namespace Sys2Proof.Machine

/-! ### The receiver (20_memory.md R59) -/

section
variable (r : Observed) (w : WireSample)

/-- The bytes read grow by the byte that is complete with the sample. -/
theorem sample_bytes : (r.sample w).bytes = r.bytes ++ (r.byteDone w).toList := by
  change (match r.byteDone w with | some b => r.bytes ++ [b] | none => r.bytes) = _
  cases r.byteDone w
  · exact (List.append_nil _).symm
  · rfl

theorem byteDone_of_no_edge (h : r.edge w = false) : r.byteDone w = none := by
  simp [Observed.byteDone, h]

theorem sample_bits_of_no_edge (hcs : w.cs = true) (h : r.edge w = false) : (r.sample w).bits = r.bits := by
  simp [Observed.sample, hcs, h]

theorem edge_of_low (hcs : w.cs = false) : r.edge w = false := by
  simp [Observed.edge, hcs]

theorem sample_bits_of_low (hcs : w.cs = false) : (r.sample w).bits = [] := by
  simp [Observed.sample, hcs]

theorem byteDone_of_last_bit (h : r.edge w = true) (h8 : r.bits.length + 1 = 8) :
    r.byteDone w = some (byteOfBits (r.bits ++ [w.mosi])) := by
  simp [Observed.byteDone, h, h8]

theorem sample_bits_of_last_bit (hcs : w.cs = true) (h : r.edge w = true) (h8 : r.bits.length + 1 = 8) :
    (r.sample w).bits = [] := by
  simp [Observed.sample, hcs, h, h8]

theorem byteDone_of_bit (h8 : r.bits.length + 1 ≠ 8) : r.byteDone w = none := by
  simp [Observed.byteDone, h8]

theorem sample_bits_of_bit (hcs : w.cs = true) (h : r.edge w = true) (h8 : r.bits.length + 1 ≠ 8) :
    (r.sample w).bits = r.bits ++ [w.mosi] := by
  simp [Observed.sample, hcs, h, h8]

end

section
variable {s t : State} (h : step s = .next t)
include h

theorem step_lastSclk : t.obs.lastSclk = some s.ser.clkPhase := by
  obtain ⟨ws, rfl⟩ := step_next s t h
  rfl

theorem step_bits : t.obs.bits = (s.obs.sample s.wire).bits := by
  obtain ⟨ws, rfl⟩ := step_next s t h
  rfl

theorem step_bytes : t.obs.bytes = s.obs.bytes ++ (s.obs.byteDone s.wire).toList := by
  rw [← sample_bytes]
  obtain ⟨ws, rfl⟩ := step_next s t h
  rfl

end

/-- Settles O47: with one tick of R59's loop being one sample (`wireDecodeFrom_cons`), what the rest of the trace decodes to
splits into the byte of this tick and what comes after. -/
theorem bytesReadAreTheTraceDecoded : Obligations.BytesReadAreTheTraceDecoded := by
  intro s t hdec h
  have htrace : t.obs.trace = s.obs.trace ++ [s.wire] := step_trace s t h
  have hdec' : DecodesItsTrace t := by
    intro rest
    calc wireDecode (t.obs.trace ++ rest)
        = wireDecode (s.obs.trace ++ (s.wire :: rest)) := by rw [htrace, List.append_assoc, List.singleton_append]
      _ = s.obs.bytes ++ wireDecodeFrom s.obs.lastSclk s.obs.bits (s.wire :: rest) := hdec (s.wire :: rest)
      _ = t.obs.bytes ++ wireDecodeFrom t.obs.lastSclk t.obs.bits rest := by
        rw [wireDecodeFrom_cons, step_bytes h, step_bits h, step_lastSclk h, List.append_assoc]
        rfl
  refine ⟨htrace, ?_, hdec'⟩
  have hnow := hdec' []
  rw [List.append_nil] at hnow
  rw [hnow, wireDecodeFrom, List.append_nil]

/-! ### The bits of a byte in the order they are sent (20_memory.md R54) -/

theorem firstBits_length (b : Byte) (n : Nat) : (firstBits b n).length = n := by
  rw [firstBits, List.length_map, List.length_range]

/-- The first bit is bit 7; the others are the first ones of the byte shifted left. -/
theorem firstBits_succ (b : Byte) (n : Nat) : firstBits b (n + 1) = topBit b :: firstBits (shiftLeftOne b) n := by
  have hshift (i : Nat) : (shiftLeftOne b).getMsbD i = b.getMsbD (i + 1) := by
    rw [shiftLeftOne, BitVec.getMsbD_shiftLeft]
  simp only [firstBits, List.range_succ_eq_map, List.map_cons, List.map_map, List.cons.injEq]
  exact ⟨rfl, List.map_congr_left fun i _ => (hshift i).symm⟩

/-- All eight bits make the byte. -/
theorem byteOfBits_firstBits (b : Byte) : byteOfBits (firstBits b 8) = b := by
  simp only [byteOfBits, firstBits, List.range_succ_eq_map, List.range_zero, List.map_cons, List.map_nil,
    List.foldl_cons, List.foldl_nil]
  refine BitVec.eq_of_getLsbD_eq fun i hi => ?_
  interval_cases i <;> simp [BitVec.getElem_shiftConcat, BitVec.getMsbD]

/-! ### The byte in flight -/

/-- With the clock low every bit still in the shift register is unread. -/
theorem unreadBits_of_clock_low {s : State} (hc : s.ser.clkPhase = false) :
    unreadBits s = firstBits s.ser.shiftReg s.ser.count.val := by
  simp [unreadBits, hc]

/-- With the clock high and its rising edge not seen yet, so is the bit on the data line. -/
theorem unreadBits_of_unseen_edge {s : State} (hc : s.ser.clkPhase = true) (hl : s.obs.lastSclk = some false) :
    unreadBits s = s.ser.dataOut :: firstBits s.ser.shiftReg (s.ser.count.val - 1) := by
  simp [unreadBits, hc, hl]

theorem unreadBits_of_seen_edge {s : State} (hc : s.ser.clkPhase = true) (hl : s.obs.lastSclk = some true) :
    unreadBits s = firstBits s.ser.shiftReg (s.ser.count.val - 1) := by
  simp [unreadBits, hc, hl]

theorem inFlight_of_idle {s : State} (hz : s.ser.count = 0) : inFlight s = false := by
  simp [inFlight, hz]

theorem inFlight_of_clock_low {s : State} (hz : s.ser.count ≠ 0) (hc : s.ser.clkPhase = false) : inFlight s = true := by
  simp [inFlight, hz, hc]

theorem inFlight_of_unseen_edge {s : State} (hz : s.ser.count ≠ 0) (hl : s.obs.lastSclk = some false) :
    inFlight s = true := by
  simp [inFlight, hz, hl]

theorem inFlight_of_seen_edge {s : State} (hz : s.ser.count ≠ 0) (hc : s.ser.clkPhase = true)
    (hl : s.obs.lastSclk = some true) : inFlight s = decide (s.ser.count ≠ 1) := by
  simp [inFlight, hz, hc, hl]

section
variable {s t : State} (h : step s = .next t) (hen : s.serEn = true) (hz : s.ser.count ≠ 0)
include h hen hz

/-- A shifting tick that finds the clock low: the receiver sees no edge, and a rising edge only moves the top bit to the data
line. -/
theorem step_in_flight_of_clock_low (hc : s.ser.clkPhase = false) :
    inFlight t = true ∧ unreadBits t = unreadBits s := by
  have hl : t.obs.lastSclk = some false := by rw [step_lastSclk h, hc]
  obtain ⟨n, hn⟩ := exists_count_eq_succ hz
  rcases nextSer_cases s fun e => (step_ranged s t h e).2 with ⟨e, -⟩ | ⟨-, e, -⟩ | ⟨-, e, -⟩ | ⟨-, -, -, e⟩ |
    ⟨-, -, -, -, e⟩ | ⟨-, -, -, e, -⟩
  · exact absurd hen (Bool.eq_false_iff.mp e)
  · exact absurd e hz
  · exact absurd e hz
  · rw [← step_ser s t h] at e
    have hc' : t.ser.clkPhase = false := by rw [e, hc]
    exact ⟨inFlight_of_clock_low (by rw [e]; exact hz) hc',
      by rw [unreadBits_of_clock_low hc', unreadBits_of_clock_low hc, e]⟩
  · rw [← step_ser s t h] at e
    have hc' : t.ser.clkPhase = true := by rw [e]
    refine ⟨inFlight_of_unseen_edge (by rw [e]; exact hz) hl, ?_⟩
    rw [unreadBits_of_unseen_edge hc' hl, unreadBits_of_clock_low hc, e, hn, firstBits_succ, Nat.add_sub_cancel]
  · exact absurd e (by rw [hc]; exact Bool.false_ne_true)

/-- One that finds it high: the bit on the data line has been read by then, and the count goes down with the falling edge. -/
theorem step_in_flight_of_clock_high (hc : s.ser.clkPhase = true) :
    inFlight t = decide (s.ser.count ≠ 1) ∧ unreadBits t = firstBits s.ser.shiftReg (s.ser.count.val - 1) := by
  have hl : t.obs.lastSclk = some true := by rw [step_lastSclk h, hc]
  rcases nextSer_cases s fun e => (step_ranged s t h e).2 with ⟨e, -⟩ | ⟨-, e, -⟩ | ⟨-, e, -⟩ | ⟨-, -, -, e⟩ |
    ⟨-, -, -, e, -⟩ | ⟨-, -, -, -, e⟩
  · exact absurd hen (Bool.eq_false_iff.mp e)
  · exact absurd e hz
  · exact absurd e hz
  · rw [← step_ser s t h] at e
    have hc' : t.ser.clkPhase = true := by rw [e, hc]
    have hz' : t.ser.count ≠ 0 := by rw [e]; exact hz
    exact ⟨by rw [inFlight_of_seen_edge hz' hc' hl, e], by rw [unreadBits_of_seen_edge hc' hl, e]⟩
  · exact absurd hc (by rw [e]; exact Bool.false_ne_true)
  · rw [← step_ser s t h] at e
    have hc' : t.ser.clkPhase = false := by rw [e]
    refine ⟨?_, by rw [unreadBits_of_clock_low hc', e]; rfl⟩
    have hval := countDown_val_add_one hz
    have hone : t.ser.count = 0 ↔ s.ser.count = 1 := by
      rw [e, Fin.ext_iff, Fin.ext_iff]
      change (countDown s.ser.count).val = 0 ↔ s.ser.count.val = 1
      omega
    simp [inFlight, hc', hone]

end

/-! ### The receiver while the clock does not rise, and while it does -/

section
variable {s t : State} (h : step s = .next t)
include h

/-- A tick with the clock low reads no bit. -/
theorem step_read_of_clock_low (hen : s.serEn = true) (hc : s.ser.clkPhase = false) :
    t.obs.bits = s.obs.bits ∧ t.obs.bytes = s.obs.bytes := by
  have hedge : s.obs.edge s.wire = false := by
    rw [Observed.edge, State.wire, State.outputs, hc, Bool.and_false]
  rw [step_bits h, sample_bits_of_no_edge _ _ hen hedge, step_bytes h, byteDone_of_no_edge _ _ hedge]
  exact ⟨rfl, List.append_nil _⟩

/-- Nor does one whose clock was high before. -/
theorem step_read_of_seen_edge (hen : s.serEn = true) (hl : s.obs.lastSclk = some true) :
    t.obs.bits = s.obs.bits ∧ t.obs.bytes = s.obs.bytes := by
  have hedge : s.obs.edge s.wire = false := by
    rw [Observed.edge, hl]
    exact congrArg (· && s.wire.sclk) (Bool.and_false _)
  rw [step_bits h, sample_bits_of_no_edge _ _ hen hedge, step_bytes h, byteDone_of_no_edge _ _ hedge]
  exact ⟨rfl, List.append_nil _⟩

/-- A disabled tick reads no bit and drops those of a byte half read. -/
theorem step_read_of_disabled (hen : s.serEn = false) : t.obs.bits = [] ∧ t.obs.bytes = s.obs.bytes := by
  rw [step_bits h, sample_bits_of_low _ _ hen, step_bytes h, byteDone_of_no_edge _ _ (edge_of_low _ _ hen)]
  exact ⟨rfl, List.append_nil _⟩

/-- A rising edge reads the data line: the eighth bit completes a byte. -/
theorem step_read_of_unseen_edge (hen : s.serEn = true) (hc : s.ser.clkPhase = true)
    (hl : s.obs.lastSclk = some false) :
    (s.obs.bits.length + 1 = 8 →
      t.obs.bits = [] ∧ t.obs.bytes = s.obs.bytes ++ [byteOfBits (s.obs.bits ++ [s.ser.dataOut])]) ∧
    (s.obs.bits.length + 1 ≠ 8 → t.obs.bits = s.obs.bits ++ [s.ser.dataOut] ∧ t.obs.bytes = s.obs.bytes) := by
  have hedge : s.obs.edge s.wire = true := by
    rw [Observed.edge, State.wire, State.outputs, hen, hc, hl]
    rfl
  rw [step_bits h, step_bytes h]
  constructor <;> intro h8
  · rw [sample_bits_of_last_bit _ _ hen hedge h8, byteDone_of_last_bit _ _ hedge h8]
    exact ⟨rfl, rfl⟩
  · rw [sample_bits_of_bit _ _ hen hedge h8, byteDone_of_bit _ _ h8]
    exact ⟨rfl, List.append_nil _⟩

end

/-! ### The statement -/

section
variable {s t : State} {lost read : List Byte} (h : step s = .next t) (hwire : WireFollows lost read s)
include h hwire

/-- An idle tick: nothing is read, and a byte that is transferred is in flight with all eight bits. -/
theorem wireFollows_of_idle (hrest : IdleClockRests s) (hz : s.ser.count = 0) : WireFollows lost read t := by
  obtain ⟨sent, hbytes, hpay, hlen, -⟩ := hwire
  have hc := (hrest hz).1
  rw [inFlight_of_idle hz, if_neg Bool.false_ne_true] at hpay hlen
  rw [List.append_nil] at hpay
  obtain ⟨hbits', hbytes'⟩ : t.obs.bits = [] ∧ t.obs.bytes = s.obs.bytes := by
    rcases Bool.eq_false_or_eq_true s.serEn with hen | hen
    · rw [← hlen]
      exact step_read_of_clock_low h hen hc
    · exact step_read_of_disabled h hen
  refine ⟨sent, hbytes'.trans hbytes, ?_⟩
  rw [step_lastSclk h, hbits']
  cases hx : s.xfer
  · have hz' := step_count_of_idle h hz hx
    rw [step_payloads_of_not_xfer h (Bool.eq_false_iff.mp hx), inFlight_of_idle hz', hpay]
    simp
  · obtain ⟨hcount, hc', -⟩ := step_ser_of_xfer h hrest hx
    have hz' : t.ser.count ≠ 0 := by
      rw [hcount]
      decide
    have hreg : t.ser.shiftReg = s.o.outPayload := step_shiftReg_of_xfer h hx
    have hunread : unreadBits t = firstBits s.o.outPayload 8 := by
      rw [unreadBits_of_clock_low hc', hreg, hcount]
      rfl
    rw [step_payloads_of_xfer h hx, inFlight_of_clock_low hz' hc', hunread, hpay, List.nil_append, byteOfBits_firstBits,
      firstBits_length]
    simp

/-- A shifting tick: the bits read and unread of the byte in flight are the same ones before and after it, until the receiver
reads the last of them. -/
theorem wireFollows_of_shifting (hen : s.serEn = true) (hz : s.ser.count ≠ 0) : WireFollows lost read t := by
  obtain ⟨sent, hbytes, hpay, hlen, hlast⟩ := hwire
  rw [WireFollows, step_payloads_of_not_xfer h (Bool.eq_false_iff.mp (xfer_of_busy hz)), step_lastSclk h]
  cases hc : s.ser.clkPhase
  · obtain ⟨hflight', hunread'⟩ := step_in_flight_of_clock_low h hen hz hc
    obtain ⟨hbits', hbytes'⟩ := step_read_of_clock_low h hen hc
    rw [inFlight_of_clock_low hz hc] at hpay hlen
    rw [hbits', hbytes', hflight', hunread']
    exact ⟨sent, hbytes, hpay, hlen, fun _ => Option.some_ne_none _⟩
  obtain ⟨hflight', hunread'⟩ := step_in_flight_of_clock_high h hen hz hc
  rw [hflight', hunread']
  match hl : s.obs.lastSclk with
  | none => exact absurd hl (hlast hc)
  | some true =>
    obtain ⟨hbits', hbytes'⟩ := step_read_of_seen_edge h hen hl
    rw [inFlight_of_seen_edge hz hc hl, unreadBits_of_seen_edge hc hl] at hpay hlen
    rw [hbits', hbytes']
    exact ⟨sent, hbytes, hpay, hlen, fun _ => Option.some_ne_none _⟩
  | some false =>
    obtain ⟨readLast, readBit⟩ := step_read_of_unseen_edge h hen hc hl
    rw [inFlight_of_unseen_edge hz hl, if_pos rfl, unreadBits_of_unseen_edge hc hl] at hpay hlen
    have hbits : s.obs.bits.length + 1 + (s.ser.count.val - 1) = 8 := by
      rw [List.length_append, List.length_cons, firstBits_length] at hlen
      omega
    by_cases hone : s.ser.count = 1
    · obtain ⟨hbits', hbytes'⟩ := readLast (by rw [hone] at hbits; exact hbits)
      have hrest : firstBits s.ser.shiftReg (s.ser.count.val - 1) = [] := by rw [hone]; rfl
      rw [hrest] at hpay
      refine ⟨sent ++ [byteOfBits (s.obs.bits ++ [s.ser.dataOut])], ?_, ?_, ?_, fun _ => Option.some_ne_none _⟩
      · rw [hbytes', hbytes, List.append_assoc]
      · simp [hone, hpay]
      · simp [hone, hbits']
    · have hval : s.ser.count.val ≠ 1 := fun e => hone (Fin.ext e)
      obtain ⟨hbits', hbytes'⟩ := readBit (by
        have := exists_count_eq_succ hz
        omega)
      rw [List.append_cons s.obs.bits] at hpay hlen
      rw [hbits', hbytes', decide_eq_true hone]
      exact ⟨sent, hbytes, hpay, hlen, fun _ => Option.some_ne_none _⟩

end

/-- Settles O40: a disabled serializer is idle, so a tick is idle or shifts. -/
theorem bytesOnTheWireAreTheBytesTransferred : Obligations.BytesOnTheWireAreTheBytesTransferred := by
  intro s t lost read hinv hwire he h
  obtain ⟨⟨-, hrest, -⟩, ⟨-, hidle⟩, -⟩ := hinv
  by_cases hz : s.ser.count = 0
  · exact wireFollows_of_idle h hwire hrest hz
  · have hs : s.o.serEnable = true := Bool.of_not_eq_false fun hs => hz (hidle hs)
    exact wireFollows_of_shifting h hwire ((serEn_of_enabled he).trans hs) hz

end Sys2Proof.Machine
end

section
/-! PROOFS, family other: the order of the bytes. The configuration's 48 (O41) and a frame's 32 pairs (O42): which byte a tick
transfers, and how far the state says the transfers have come. -/

namespace Sys2Proof.Machine

/-- The payloads grow by the byte transferred. -/
theorem step_payloads {s t : State} (h : step s = .next t) :
    t.obs.payloads = s.obs.payloads ++ (if s.xfer then [s.o.outPayload] else []) := by
  obtain ⟨ws, rfl⟩ := step_next s t h
  rfl

/-! ### The configuration (41_orchestrator_config.md R119) -/

/-- The two bytes of each pair stand in the sequence where the indices say. -/
theorem configBytes_pair (step : Fin 6) (digit : BitVec 2) :
    configBytes[2 * (4 * step.val + (3 - digit.toNat))]? = some (cfgRead step .reg) ∧
      configBytes[2 * (4 * step.val + (3 - digit.toNat)) + 1]? = some (cfgRead step .val) := by
  revert step digit
  decide

/-- A tick transfers nothing and the configuration stands where it did, or it transfers the next byte of the sequence. -/
def ConfigTick (s t : State) : Prop :=
  (s.xfer = false ∧ configSent t = configSent s) ∨
    (s.xfer = true ∧ configSent t = configSent s + 1 ∧ configBytes[configSent s]? = some s.o.outPayload)

/-- The pairs done and the pairs to come make 24 with the current one. -/
theorem pairsAfter_add_done (s : State) : 4 * s.o.step.val + (3 - s.o.digitIndex.toNat) + pairsAfter s = 23 := by
  have hstep := s.o.step.isLt
  have hdigit := s.o.digitIndex.isLt
  rw [pairsAfter]
  omega

section
variable {s t : State} (hinv : RunInv s) (h : step s = .next t) (he : s.input.en = true)
include hinv h he

/-- The ticks in which ConfigNext or Init sets the indices. -/
theorem configTick_of_indices (hm : s.o.state = .init ∨ s.o.state = .configNext)
    (hend : ¬ (s.o.state = .configNext ∧ s.o.digitIndex = 0#2 ∧ s.o.step = 5))
    (hinit : s.o.state = .init → s.o.step = 0 ∧ s.o.digitIndex = Config.LAST) : ConfigTick s t := by
  have facts := runInv_facts hinv
  have ht := step_table h he
  rcases hm with htag | htag <;> simp only [htag] at facts
  · refine .inl ⟨xfer_of_no_offer facts.1, ?_⟩
    simp [configSent, htag, ht, tableOrch, successor, nextStep, nextDigitIndex, hinit htag]
  · have hpairs := pairsAfter_of_configNext h he htag fun e => hend ⟨htag, e⟩
    have htag' : t.o.state = .sendReg := by
      have hend' : ¬ (s.o.digitIndex = 0#2 ∧ s.o.step = 5) := fun e => hend ⟨htag, e⟩
      simp [ht, tableOrch, successor, htag, hend']
    have hs := pairsAfter_add_done s
    have hs' := pairsAfter_add_done t
    refine .inl ⟨xfer_of_no_offer facts.2.1, ?_⟩
    simp only [configSent, htag, htag']
    omega

/-- The ticks that push a pair's two bytes. -/
theorem configTick_of_push (hm : s.o.state ∈ [StateTag.sendReg, .w4RegActive, .w4RegComplete, .sendValue, .w4ValueActive,
    .w4ValueComplete]) : ConfigTick s t := by
  have facts := runInv_facts hinv
  have ht := step_table h he
  have kinds := step_kinds hinv h he
  obtain ⟨-, -, -, ⟨hsend, hreg, -, hval, -⟩, -, -⟩ := hinv
  obtain ⟨regByte, valByte⟩ := configBytes_pair s.o.step s.o.digitIndex
  cases htag : s.o.state <;> simp only [htag] at facts
  case sendReg =>
    rcases kinds with ⟨-, -, hr, -⟩ | ⟨-, -, hr, hv, hz'⟩ | ⟨-, -, hr, hv, hz', -⟩ | ⟨-, hz, -⟩
    · refine .inl ⟨xfer_of_not_ready hr, ?_⟩
      simp [configSent, htag, ht, tableOrch, successor, nextStep, nextDigitIndex, hr]
    · refine .inl ⟨xfer_of_no_offer hv, ?_⟩
      simp [configSent, htag, ht, tableOrch, successor, nextStep, nextDigitIndex, hr, hz']
    · refine .inr ⟨xfer_of_offer hv hr, ?_, ?_⟩
      · simp [configSent, htag, ht, tableOrch, successor, nextStep, nextDigitIndex, hr, hz']
      · rw [hsend htag hv, ← regByte, configSent, htag]
        rfl
    · exact absurd facts hz
  case w4RegActive =>
    rcases kinds with ⟨hs, -⟩ | ⟨-, hz, -, hv, -⟩ | ⟨-, hz, hr, hv, hz', -⟩ | ⟨-, hz, hr, -⟩
    · simp [hs] at facts
    · simp [hz, hv] at facts
    · refine .inr ⟨xfer_of_offer hv hr, ?_, ?_⟩
      · simp [configSent, htag, ht, tableOrch, successor, nextStep, nextDigitIndex, hr, hz, hz']
      · rw [hreg htag, ← regByte, configSent, htag, hz]
        rfl
    · refine .inl ⟨xfer_of_not_ready hr, ?_⟩
      simp [configSent, htag, ht, tableOrch, successor, nextStep, nextDigitIndex, hr, hz]
  case w4RegComplete | w4ValueComplete =>
    refine .inl ⟨xfer_of_no_offer facts.2, ?_⟩
    cases hr : s.serReady <;> simp [configSent, htag, ht, tableOrch, successor, nextStep, nextDigitIndex, hr]
  case sendValue =>
    rcases kinds with ⟨hs, -⟩ | ⟨-, -, hr, hv, hz'⟩ | ⟨-, -, -, hv, -⟩ | ⟨-, hz, -⟩
    · simp [hs] at facts
    · refine .inl ⟨xfer_of_no_offer hv, ?_⟩
      simp [configSent, htag, ht, tableOrch, successor, nextStep, nextDigitIndex, hr, hz']
    · simp [hv] at facts
    · exact absurd facts.2.2 hz
  case w4ValueActive =>
    rcases kinds with ⟨hs, -⟩ | ⟨-, hz, -, hv, -⟩ | ⟨-, hz, hr, hv, hz', -⟩ | ⟨-, hz, hr, -⟩
    · simp [hs] at facts
    · simp [hz, hv] at facts
    · refine .inr ⟨xfer_of_offer hv hr, ?_, ?_⟩
      · simp [configSent, htag, ht, tableOrch, successor, nextStep, nextDigitIndex, hr, hz, hz']
      · rw [hval htag, ← valByte, configSent, htag, hz]
        rfl
    · refine .inl ⟨xfer_of_not_ready hr, ?_⟩
      simp [configSent, htag, ht, tableOrch, successor, nextStep, nextDigitIndex, hr, hz]
  all_goals simp [htag] at hm

/-- Every tick of the configuration but the last is one of these. -/
theorem configTick (hm : s.o.state ∈ configStates)
    (hend : ¬ (s.o.state = .configNext ∧ s.o.digitIndex = 0#2 ∧ s.o.step = 5))
    (hinit : s.o.state = .init → s.o.step = 0 ∧ s.o.digitIndex = Config.LAST) : ConfigTick s t := by
  by_cases hi : s.o.state = .init ∨ s.o.state = .configNext
  · exact configTick_of_indices hinv h he hi hend hinit
  · refine configTick_of_push hinv h he ?_
    cases htag : s.o.state <;> simp_all

/-- The configuration is left from the last ConfigNext, for Tick, with all 48 bytes transferred. -/
theorem config_end {base : List Byte} (htag : s.o.state = .configNext) (hend : s.o.digitIndex = 0#2 ∧ s.o.step = 5)
    (hpay : s.obs.payloads = base ++ configBytes.take (configSent s)) :
    t.o.state = .tick ∧ t.obs.payloads = base ++ configBytes := by
  have facts := runInv_facts hinv
  simp only [htag] at facts
  have hsent : configSent s = 48 := by
    rw [configSent, htag, hend.1, hend.2]
    rfl
  rw [step_table h he, step_payloads h, xfer_of_no_offer facts.2.1, hpay, hsent]
  exact ⟨by simp [tableOrch, successor, htag, hend], by simp [configBytes]⟩

end

/-- A state of the configuration is followed by another one, but for the last ConfigNext. -/
theorem successor_configuration {s : State} (hm : s.o.state ∈ configStates)
    (hend : ¬ (s.o.state = .configNext ∧ s.o.digitIndex = 0#2 ∧ s.o.step = 5)) : successor s ∈ configStates := by
  unfold successor
  cases htag : s.o.state
  case init => simp
  case configNext =>
    have hend' : ¬ (s.o.digitIndex = 0#2 ∧ s.o.step = 5) := fun e => hend ⟨htag, e⟩
    simp [hend']
  case sendReg | w4RegActive | w4RegComplete | sendValue | w4ValueActive | w4ValueComplete =>
    cases hr : s.serReady <;> simp
  all_goals simp [htag] at hm

/-- With `en = 1` the configuration is not entered again. -/
theorem successor_not_configuration {s : State} (hm : s.o.state ∉ configStates) : successor s ∉ configStates := by
  unfold successor
  cases htag : s.o.state <;> simp_all
  all_goals split_ifs <;> decide

/-- A step with a `ConfigTick` keeps the transfers the first ones of the sequence. -/
theorem configTick_payloads {s t : State} {base : List Byte} (h : step s = .next t) (htick : ConfigTick s t)
    (hpay : s.obs.payloads = base ++ configBytes.take (configSent s)) :
    t.obs.payloads = base ++ configBytes.take (configSent t) := by
  rw [step_payloads h, hpay]
  rcases htick with ⟨hx, hsent⟩ | ⟨hx, hsent, hbyte⟩
  · rw [hx, hsent, if_neg Bool.false_ne_true, List.append_nil]
  · rw [hx, hsent, if_pos rfl, List.take_add_one, hbyte, List.append_assoc, Option.toList_some]

/-- Settles O41: a tick of the configuration keeps the order by `ConfigTick`, the last one ends it with all 48 bytes sent, and
later transfers only add to them. -/
theorem configurationBytesAreSentInOrder : Obligations.ConfigurationBytesAreSentInOrder := by
  intro s t base hinv hord he h
  have hst : t.o.state = successor s := step_state h he
  by_cases hm : s.o.state ∈ configStates
  · rw [ConfigInOrder, if_pos hm] at hord
    obtain ⟨hpay, hinit⟩ := hord
    by_cases hend : s.o.state = .configNext ∧ s.o.digitIndex = 0#2 ∧ s.o.step = 5
    · obtain ⟨htick, hall⟩ := config_end hinv h he hend.1 hend.2 hpay
      rw [ConfigInOrder, if_neg (by simp [htick]), hall]
    · have hm' : t.o.state ∈ configStates := hst ▸ successor_configuration hm hend
      rw [ConfigInOrder, if_pos hm']
      refine ⟨configTick_payloads h (configTick hinv h he hm hend hinit) hpay, fun hi => ?_⟩
      have back := successor_backwards s
      simp [← hst, hi] at back
  · rw [ConfigInOrder, if_neg hm] at hord
    rw [ConfigInOrder, if_neg (hst ▸ successor_not_configuration hm), step_payloads h]
    exact hord.trans (List.prefix_append _ _)

/-! ### A frame (42_orchestrator_render.md R130) -/

/-- One bitmap more is its row-select byte and the bitmap. -/
theorem frameBytes_concat (bitmaps : List Byte) (b : Byte) :
    frameBytes (bitmaps ++ [b]) = frameBytes bitmaps ++ [BitVec.ofNat 8 (bitmaps.length / 4 + 1), b] := by
  simp [frameBytes, List.zipIdx_append]

/-- The row-select byte as a number (30_encoding.md R82). -/
theorem rowSelectByte_eq_ofNat (row : BitVec 3) : rowSelectByte row = BitVec.ofNat 8 (row.toNat + 1) := by
  apply BitVec.eq_of_toNat_eq
  rw [rowSelectByte, BitVec.zeroExtend, BitVec.toNat_add, BitVec.toNat_setWidth, BitVec.toNat_ofNat]
  have := row.isLt
  simp

/-- A tick of a frame within the current pair: it transfers nothing, or the row-select byte. -/
def SelectTick (s t : State) : Prop :=
  pairsSent t = pairsSent s ∧ t.o.rowIndex = s.o.rowIndex ∧
    ((s.xfer = false ∧ selectSent t = selectSent s) ∨
      (s.xfer = true ∧ s.o.outPayload = rowSelectByte s.o.rowIndex ∧ selectSent s = false ∧ selectSent t = true))

/-- The states of a pair but its last two. -/
abbrev selectStates : List StateTag := [.sendUpdate, .w4UpdateActive, .w4UpdateComplete, .getRow, .waitForRow]

/-- They keep both indices, and none of them ends the pair. -/
theorem indices_of_select {s t : State} (h : step s = .next t) (he : s.input.en = true) (hm : s.o.state ∈ selectStates) :
    pairsSent t = pairsSent s ∧ t.o.rowIndex = s.o.rowIndex := by
  have hdigit : nextDigitIndex s = s.o.digitIndex :=
    nextDigitIndex_eq (by cases htag : s.o.state <;> simp_all)
  have hrow : nextRowIndex s = s.o.rowIndex := nextRowIndex_eq (by cases htag : s.o.state <;> simp_all)
  have hnot : ¬ s.o.state = .rowSent := fun htag => by simp [htag] at hm
  have hnot' : ¬ successor s = .rowSent := fun hst => by
    have back := successor_backwards s
    simp only [hst] at back
    simp [back.1] at hm
  rw [pairsSent, pairsSent, step_table h he, tableOrch, hdigit, hrow, if_neg hnot, if_neg hnot']
  exact ⟨rfl, rfl⟩

section
variable {s t : State} (hinv : RunInv s) (h : step s = .next t) (he : s.input.en = true)
include hinv h he

/-- The row-select byte is transferred in SendUpdate or in the tick after it. -/
theorem selectTick (hm : s.o.state ∈ selectStates) : SelectTick s t := by
  have facts := runInv_facts hinv
  have ht := step_table h he
  have kinds := step_kinds hinv h he
  obtain ⟨-, -, -, ⟨-, -, -, -, hsend, hupd, -⟩, -, -⟩ := hinv
  obtain ⟨hpairs, hrow⟩ := indices_of_select h he hm
  refine ⟨hpairs, hrow, ?_⟩
  cases htag : s.o.state <;> simp only [htag] at facts
  case sendUpdate =>
    rcases kinds with ⟨-, -, hr, -⟩ | ⟨-, -, hr, hv, hz'⟩ | ⟨-, -, hr, hv, hz', -⟩ | ⟨-, -, hr, -⟩
    · exact .inl ⟨xfer_of_not_ready hr, by simp [selectSent, htag, ht, tableOrch, successor, hr]⟩
    · exact .inl ⟨xfer_of_no_offer hv, by simp [selectSent, htag, ht, tableOrch, successor, hr, hz']⟩
    · exact .inr ⟨xfer_of_offer hv hr, hsend htag hv, by simp [selectSent, htag],
        by simp [selectSent, htag, ht, tableOrch, successor, hr, hz']⟩
    · exact .inl ⟨xfer_of_not_ready hr, by simp [selectSent, htag, ht, tableOrch, successor, hr]⟩
  case w4UpdateActive =>
    rcases kinds with ⟨hs, -⟩ | ⟨-, hz, -, hv, -⟩ | ⟨-, hz, hr, hv, hz', -⟩ | ⟨-, hz, hr, -⟩
    · simp [hs] at facts
    · simp [hz, hv] at facts
    · exact .inr ⟨xfer_of_offer hv hr, hupd htag, by simp [selectSent, htag, hz],
        by simp [selectSent, htag, ht, tableOrch, successor, hr, hz']⟩
    · exact .inl ⟨xfer_of_not_ready hr, by simp [selectSent, htag, ht, tableOrch, successor, hr, hz]⟩
  case w4UpdateComplete =>
    refine .inl ⟨xfer_of_no_offer facts.2, ?_⟩
    cases hr : s.serReady <;> simp [selectSent, htag, ht, tableOrch, successor, hr]
  case getRow => exact .inl ⟨xfer_of_no_offer facts.2.1, by simp [selectSent, htag, ht, tableOrch, successor]⟩
  case waitForRow =>
    refine .inl ⟨xfer_of_no_offer facts.2.1, ?_⟩
    cases hresp : s.input.grespValid <;> simp [selectSent, htag, ht, tableOrch, successor, hresp]
  all_goals simp [htag] at hm

/-- SendRow transfers its bitmap and goes to RowSent with both indices as they were. -/
theorem step_of_sendRow (htag : s.o.state = .sendRow) :
    s.xfer = true ∧ s.o.outPayload = s.o.bitmap ∧ t.o.state = .rowSent ∧ t.o.rowIndex = s.o.rowIndex ∧
      t.o.digitIndex = s.o.digitIndex := by
  have facts := runInv_facts hinv
  simp only [htag] at facts
  have hr : s.serReady = true := by simp [serReady_of_enabled he, facts]
  obtain ⟨-, -, -, ⟨-, -, -, -, -, -, hrow⟩, -⟩ := hinv
  rw [step_table h he]
  refine ⟨xfer_of_offer facts.2.1 hr, (hrow htag).2, ?_, ?_, ?_⟩
  · simp [tableOrch, successor, htag, hr]
  · exact nextRowIndex_eq (by simp [htag])
  · exact nextDigitIndex_eq (by simp [htag])

/-- RowSent transfers nothing; at the end of the frame 32 pairs have been sent, and else the next one is due. -/
theorem step_of_rowSent (htag : s.o.state = .rowSent) :
    s.xfer = false ∧
      ((t.o.state = .tick ∧ pairsSent s = 32) ∨ (t.o.state = .sendUpdate ∧ pairsSent t = pairsSent s)) := by
  have facts := runInv_facts hinv
  simp only [htag] at facts
  refine ⟨xfer_of_no_offer facts.2.1, ?_⟩
  rw [pairsSent, pairsSent, step_table h he]
  by_cases hend : s.o.digitIndex = 0#2 ∧ s.o.rowIndex = 7#3
  · exact .inl (by simp [tableOrch, successor, htag, hend])
  · refine .inr ⟨by simp [tableOrch, successor, htag, hend], ?_⟩
    by_cases hd : s.o.digitIndex = 0#2
    · have hr : ¬ s.o.rowIndex = 7#3 := fun hr => hend ⟨hd, hr⟩
      simp [tableOrch, successor, nextRowIndex, nextDigitIndex, htag, hd, hr]
      bv_omega
    · simp [tableOrch, successor, nextRowIndex, nextDigitIndex, htag, hd]
      bv_omega

end

/-! ### Each kind of tick keeps the order of a frame's bytes -/

section
variable {s t : State} {base bitmaps : List Byte} (h : step s = .next t)
include h

theorem frameInOrder_of_selectTick (htick : SelectTick s t) (hord : FrameInOrder base bitmaps s) :
    FrameInOrder base bitmaps t := by
  obtain ⟨hlen, hpay⟩ := hord
  obtain ⟨hpairs, hrow, htick⟩ := htick
  refine ⟨hlen.trans hpairs.symm, ?_⟩
  rw [step_payloads h, hpay, hrow]
  rcases htick with ⟨hx, hsel⟩ | ⟨hx, hbyte, hsel, hsel'⟩
  · rw [hx, hsel, if_neg Bool.false_ne_true, List.append_nil]
  · rw [hx, hbyte, hsel, hsel', if_neg Bool.false_ne_true, if_pos rfl, List.append_nil]

/-- SendRow's bitmap follows the row-select byte of its pair, whose row is the number of pairs sent by four. -/
theorem frameInOrder_of_sendRow (hinv : RunInv s) (he : s.input.en = true) (htag : s.o.state = .sendRow)
    (hord : FrameInOrder base bitmaps s) : FrameInOrder base (bitmaps ++ [s.o.bitmap]) t := by
  obtain ⟨hlen, hpay⟩ := hord
  obtain ⟨hx, hbyte, htag', hrow, hdigit⟩ := step_of_sendRow hinv h he htag
  have hselect : rowSelectByte s.o.rowIndex = BitVec.ofNat 8 (bitmaps.length / 4 + 1) := by
    have hdigit := s.o.digitIndex.isLt
    rw [rowSelectByte_eq_ofNat, hlen, pairsSent, if_neg (by simp [htag])]
    congr 2
    omega
  constructor
  · rw [List.length_append, List.length_singleton, hlen, pairsSent, pairsSent, hrow, hdigit, if_pos htag',
      if_neg (by simp [htag])]
  · rw [step_payloads h, hpay, hx, hbyte, hselect, frameBytes_concat]
    simp [selectSent, htag, htag']

theorem frameInOrder_of_rowSent (hx : s.xfer = false) (htag : s.o.state = .rowSent) (htag' : t.o.state = .sendUpdate)
    (hpairs : pairsSent t = pairsSent s) (hord : FrameInOrder base bitmaps s) : FrameInOrder base bitmaps t := by
  obtain ⟨hlen, hpay⟩ := hord
  refine ⟨hlen.trans hpairs.symm, ?_⟩
  rw [step_payloads h, hpay, hx]
  simp [selectSent, htag, htag']

end

/-- A state of a frame is followed by another one or by Tick. -/
theorem successor_frame {s : State} (hm : s.o.state ∈ frameStates) :
    successor s ∈ frameStates ∨ (successor s = .tick ∧ s.o.state = .rowSent) := by
  unfold successor
  cases htag : s.o.state <;> simp_all
  all_goals split_ifs <;> simp_all

/-- Tick starts a frame at its first pair, and transfers nothing. -/
theorem frameInOrder_of_tick {s t : State} (hinv : RunInv s) (h : step s = .next t) (he : s.input.en = true)
    (htag : s.o.state = .tick) (htag' : t.o.state = .sendUpdate) : FrameInOrder s.obs.payloads [] t := by
  have facts := runInv_facts hinv
  simp only [htag] at facts
  have hp : s.o.refreshPending = true := by
    rw [step_table h he] at htag'
    simpa [tableOrch, successor, htag] using htag'
  constructor
  · simp [pairsSent, step_table h he, tableOrch, successor, nextRowIndex, nextDigitIndex, htag, hp]
  · rw [step_payloads h, xfer_of_no_offer facts]
    simp [selectSent, htag', frameBytes]

/-- Settles O42: within a pair by `SelectTick`; SendRow adds the pair's bitmap; RowSent advances the indices or ends the
frame. -/
theorem frameBytesAreSentInOrder : Obligations.FrameBytesAreSentInOrder := by
  intro s t hinv he h
  refine ⟨frameInOrder_of_tick hinv h he, fun base bitmaps hm hord => ?_⟩
  have hnext := successor_frame hm
  rw [← step_state h he] at hnext
  by_cases hsend : s.o.state = .sendRow
  · obtain ⟨-, -, htag', -⟩ := step_of_sendRow hinv h he hsend
    dsimp only
    rw [if_pos hsend]
    exact ⟨fun _ => frameInOrder_of_sendRow h hinv he hsend hord, fun htick => by simp [htag'] at htick,
      .inl (by simp [htag'])⟩
  dsimp only
  rw [if_neg hsend]
  by_cases hsent : s.o.state = .rowSent
  · obtain ⟨hx, ⟨htick, h32⟩ | ⟨htag', hpairs⟩⟩ := step_of_rowSent hinv h he hsent
    · refine ⟨fun hm' => by simp [htick] at hm', fun _ => ⟨hord.1.trans h32, ?_⟩, .inr htick⟩
      rw [step_payloads h, hord.2, hx]
      simp [selectSent, hsent]
    · exact ⟨fun _ => frameInOrder_of_rowSent h hx hsent htag' hpairs hord, fun htick => by simp [htag'] at htick,
        .inl (by simp [htag'])⟩
  · have hselect : s.o.state ∈ selectStates := by cases htag : s.o.state <;> simp_all
    have hframe : t.o.state ∈ frameStates := hnext.resolve_right fun hend => hsent hend.2
    exact ⟨fun _ => frameInOrder_of_selectTick h (selectTick hinv h he hselect) hord,
      fun htick => by simp [htick] at hframe, .inl hframe⟩

end Sys2Proof.Machine
end

section
/-! PROOFS, family other: one tick of one operation. What each orchestrator operation writes with `en = 1` and its counter in range
(O2 to O8), the reset (O9), what each serializer operation writes (O11 to O14), and the refusals (O45). -/

namespace Sys2Proof.Machine

/-! ### The orchestrator's operations -/

/-- Settles O2: each state's rule is one phase of the push, and the refresh latch sets the flag. -/
theorem threePhasePushOfEachTriple : Obligations.ThreePhasePushOfEachTriple := by
  intro s he hp ready pending
  have hready : s.serReady = decide ready := by
    rw [serReady_of_enabled he, Bool.decide_and, Bool.decide_eq_true]
  have run (tag : StateTag) := exec_op_enabled tag s he hp
  rw [hready] at run
  refine ⟨(run .sendReg).trans ?_, (run .w4RegActive).trans ?_, (run .w4RegComplete).trans ?_,
    (run .sendValue).trans ?_, (run .w4ValueActive).trans ?_, (run .w4ValueComplete).trans ?_,
    (run .sendUpdate).trans ?_, (run .w4UpdateActive).trans ?_, (run .w4UpdateComplete).trans ?_⟩
  case refine_7 =>
    rw [stateRule, rowSelectByte_eq_ofNat]
    simp [pushSend, enableSerializer, refreshLatch, pending]
  all_goals simp [stateRule, pushSend, pushActive, pushComplete, enableSerializer, refreshLatch, pending]

/-- An index above 0 goes down by one. -/
theorem digitIndex_sub_one {digit : BitVec 2} {d : Nat} (h : digit.toNat = d + 1) :
    digit ≠ 0#2 ∧ digit - 1#2 = BitVec.ofNat 2 d := by
  have := digit.isLt
  constructor
  · rintro rfl
    simp at h
  · apply BitVec.eq_of_toNat_eq
    simp [h]
    omega

/-- Settles O3: the three branches of the rule (`stateRule_configNext`). -/
theorem configNextAdvancesModuleThenEntry : Obligations.ConfigNextAdvancesModuleThenEntry := by
  intro s he hp pending
  have run := exec_op_enabled .configNext s he hp
  rw [stateRule_configNext] at run
  refine ⟨fun d hd => run.trans ?_, fun hd n hn => run.trans ?_, fun hd hs => run.trans ?_⟩
  · obtain ⟨hne, hsub⟩ := digitIndex_sub_one hd
    rw [if_neg hne, hsub]
    rfl
  · have hs : s.o.step ≠ 5 := fun hs => by
      rw [hs] at hn
      omega
    have hnext : nextEntry s.o.step = n := Fin.ext ((nextEntry_val s.o.step hs).trans hn.symm)
    rw [if_pos hd, if_neg hs, hnext]
    rfl
  · rw [if_pos hd, if_pos hs]
    rfl

/-- Settles O4: the two branches of the rule. -/
theorem tickStartsAFrameOnAPendingRefresh : Obligations.TickStartsAFrameOnAPendingRefresh := by
  intro s he hp
  have run := exec_op_enabled .tick s he hp
  refine ⟨fun hpending => run.trans ?_, fun hpending => run.trans ?_⟩
  · simp [stateRule, hpending, refreshLatch]
  · simp [stateRule, hpending, refreshLatch]

/-- The character code as a number (30_encoding.md R83). -/
theorem charCode_eq_ofNat (d : Digit) : charCode d = BitVec.ofNat 8 (d.toNat + 0x30) := by
  apply BitVec.eq_of_toNat_eq
  simp [charCode]

/-- The row field as a number (R84). -/
theorem rowField_eq_ofNat (row : BitVec 3) : rowField row = BitVec.ofNat 8 row.toNat := by
  apply BitVec.eq_of_toNat_eq
  simp [rowField]

/-- Settles O5: the rule, with its two fields as numbers. -/
theorem getRowIssuesTheRequest : Obligations.GetRowIssuesTheRequest := by
  intro s he hp
  refine (exec_op_enabled .getRow s he hp).trans ?_
  rw [stateRule, charCode_eq_ofNat, rowField_eq_ofNat]
  rfl

/-- Settles O6: the two branches of the rule. -/
theorem waitForRowTakesTheResponse : Obligations.WaitForRowTakesTheResponse := by
  intro s he hp
  have run := exec_op_enabled .waitForRow s he hp
  refine ⟨fun hresp => run.trans ?_, fun hresp => run.trans ?_⟩
  · simp [stateRule, hresp, refreshLatch]
  · simp [stateRule, hresp, refreshLatch]

/-- Settles O7: the two branches of the rule. -/
theorem sendRowLeavesOnTheTransfer : Obligations.SendRowLeavesOnTheTransfer := by
  intro s he hp
  have run := exec_op_enabled .sendRow s he hp
  rw [serReady_of_enabled he] at run
  refine ⟨fun hs hz => run.trans ?_, fun hbusy => run.trans ?_⟩
  · simp [stateRule, hs, hz, refreshLatch]
  · have hr : ¬ (s.o.serEnable = true ∧ s.ser.count = 0) := fun ⟨hs, hz⟩ => hbusy.elim (by simp [hs]) (absurd hz)
    simp [stateRule, hr, refreshLatch]

/-- Settles O8: the three branches of the rule (`stateRule_rowSent`). -/
theorem rowSentAdvancesModuleThenRow : Obligations.RowSentAdvancesModuleThenRow := by
  intro s he hp pending
  have run := exec_op_enabled .rowSent s he hp
  rw [stateRule_rowSent] at run
  refine ⟨fun d hd => run.trans ?_, fun hd hr => run.trans ?_, fun hd hr => run.trans ?_⟩
  · obtain ⟨hne, hsub⟩ := digitIndex_sub_one hd
    rw [if_neg hne, hsub]
    rfl
  · have hne : s.o.rowIndex ≠ 7#3 := fun e => by simp [e] at hr
    have hnext : s.o.rowIndex + 1#3 = BitVec.ofNat 3 (s.o.rowIndex.toNat + 1) := by
      apply BitVec.eq_of_toNat_eq
      simp
    rw [if_pos hd, if_neg hne, hnext]
    rfl
  · rw [if_pos hd, if_pos hr]
    rfl

/-- Settles O9: every operation is a tick of the orchestrator, and one with `en = 0` is reset entry. -/
theorem enableLowOverridesEveryStateRule : Obligations.EnableLowOverridesEveryStateRule := by
  intro i s hi he
  obtain ⟨tag, rfl⟩ := exists_op_eq_of_mem_orchestratorOps hi
  exact (exec_op tag s).trans (orchTick_disabled s _ he)

/-! ### The serializer's operations -/

/-- An enabled operation with its counter in range writes its rule. -/
theorem exec_serCond_op_in_range (k : SerCond) (s : State) (hk : k.e = true) (hr : SerInRange s) :
    exec k.op s = .next { s with ser := serRule s.prescaler s.o.outPayload k s.ser } := by
  rw [exec_serCond_op, if_pos hk, serTick_in_range s _ hr]

/-- Settles O11: the reset, and the rules of the patterns `110--` and `111--`. -/
theorem serializerDisablesHoldsOrLoads : Obligations.SerializerDisablesHoldsOrLoads := by
  intro s z v p c
  refine ⟨fun hdis => serReset_next s fun he => hdis.resolve_left (by simp [he]), fun hr => ⟨?_, ?_⟩⟩
  · exact exec_serCond_op_in_range ⟨true, true, false, p, c⟩ s rfl hr
  · exact exec_serCond_op_in_range ⟨true, true, true, p, c⟩ s rfl hr

/-- Settles O12: the rule of the pattern `10-0-`. -/
theorem serializerWaitCountsTheDividerDown : Obligations.SerializerWaitCountsTheDividerDown := by
  intro s v c n hn hle
  have hr : SerInRange s := hn.trans_le hle
  have hsub : s.ser.prescaleCounter - 1 = n := by rw [hn, Nat.add_sub_cancel]
  rw [← hsub]
  exact exec_serCond_op_in_range ⟨true, false, v, false, c⟩ s rfl hr

/-- Settles O13: an enabled operation is a tick of the serializer, which refuses. -/
theorem serializerWaitRefusesACounterOutOfRange : Obligations.SerializerWaitRefusesACounterOutOfRange :=
  fun s v c h => (exec_serCond_op ⟨true, false, v, false, c⟩ s).trans (serTick_out_of_range s _ h)

/-- Bit 7 says whether a byte is 128 or more. -/
theorem topBit_eq_decide (b : Byte) : topBit b = decide (128 ≤ b.toNat) := by
  rw [topBit, ← BitVec.msb_eq_getLsbD_last, BitVec.msb_eq_decide]

/-- Settles O14: the rules of the patterns `10-10` and `10-11`. -/
theorem serializerRisesAndFalls : Obligations.SerializerRisesAndFalls := by
  intro s v hr
  constructor
  · rw [← topBit_eq_decide, ← shiftLeftOne_eq_ofNat]
    exact exec_serCond_op_in_range ⟨true, false, v, true, false⟩ s rfl hr
  · intro n hn
    have hcount : countDown s.ser.count = n := Fin.ext ((congrArg (· - 1) hn).trans (Nat.add_sub_cancel n.val 1))
    rw [← hcount]
    exact exec_serCond_op_in_range ⟨true, false, v, true, true⟩ s rfl hr

/-! ### Counters out of range -/

/-- With `en = 1` every operation of the orchestrator refuses its counter above PRESCALER. -/
theorem exec_op_out_of_range (tag : StateTag) (s : State) (he : s.input.en = true) (hp : ¬ OrchInRange s) :
    exec tag.op s = .refused .prescaleCounterOutOfRange := by
  rw [exec_op, orchTick, if_pos he, if_pos (Nat.lt_of_not_le hp)]

/-- And every operation of the serializer its own. -/
theorem exec_serCond_op_out_of_range (k : SerCond) (s : State) (he : s.input.en = true) (hp : ¬ SerInRange s) :
    exec k.op s = .refused .prescaleCounterOutOfRange := by
  rw [exec_serCond_op, serReset, if_pos he, serTick_out_of_range s _ (Nat.lt_of_not_le hp),
    serTick_out_of_range s _ (Nat.lt_of_not_le hp), ite_self]

/-- Settles O45: every code is that of a tag and every vector that of its Booleans, and all their operations refuse. -/
theorem countersOutOfRangeAreRefused : Obligations.CountersOutOfRangeAreRefused := by
  refine ⟨fun w => ⟨(StateTag.ofCode w).op, ?_, rfl⟩, fun w => ⟨SerCond.ofBits w, bits_ofBits w, rfl⟩, ?_, ?_, ?_⟩
  · cases StateTag.ofCode w <;> decide
  · intro i s hi he hp
    obtain ⟨tag, rfl⟩ := exists_op_eq_of_mem_orchestratorOps hi
    exact exec_op_out_of_range tag s he hp
  · exact fun k s he hp => exec_serCond_op_out_of_range k s he hp
  · exact fun s he hp => step_out_of_range s he (hp.imp Nat.lt_of_not_le Nat.lt_of_not_le)

end Sys2Proof.Machine
end

section
/-! PROOFS, family other: the whole step. What it runs and commits (O20), what its outputs show (O46), the reset (O23 to O25), the
handshake and the wires within a tick (O29, O30), and the pins that no rule reads (O34). -/

namespace Sys2Proof.Machine

/-- Settles O20: the codes decode to the operations the step runs, and the completed word's operation records that word. -/
theorem stepRunsTheDecodedOperations : Obligations.StepRunsTheDecodedOperations := by
  intro s a b i j hi hj ha hb
  have hi' : s.orchOp = i := by
    rw [decode, ofCode_code] at hi
    exact Except.ok.inj hi
  have hj' : s.serOp = j := Except.ok.inj ((decode_bits s.serCond).symm.trans hj)
  have h : step s = .next (commit s a b
      { s with obs := { s.obs with words := s.obs.words ++ (s.obs.wordDone s.wire).toList } }) := by
    simp only [step, hi', hj', ha, hb, runWord_eq]
  refine ⟨_, h, rfl, rfl, rfl, rfl, rfl, ?_, ?_, ?_⟩
  · simp [commit, State.xfer, Observed.sample]
  · intro w k c hw hk hc
    rw [exec_decodeWire16_records s hk] at hc
    cases hc
    rw [commit_words, hw]
    rfl
  · intro hw
    rw [commit_words, hw]
    exact List.append_nil _

/-- Settles O46: by definition, but for the bracketing of the transfer. -/
theorem outputsAreCurrentRegisters : Obligations.OutputsAreCurrentRegisters := by
  intro s
  refine ⟨rfl, rfl, rfl, ?_⟩
  rw [State.xfer, State.serReady, State.serEn, Bool.and_assoc, Bool.and_assoc, Bool.and_assoc]

/-! ### Around a reset -/

/-- A tick with `en = 0` is refused by nothing. -/
theorem ranged_of_disabled {s : State} (he : s.input.en = false) : Ranged s := fun e => by simp [he] at e

/-- Settles O23: such a tick is not refused, and resets both components. -/
theorem oneTickOfEnableLowResetsEveryRegister : Obligations.OneTickOfEnableLowResetsEveryRegister := by
  intro s he
  have h := step_eq_next s (ranged_of_disabled he)
  exact ⟨_, h, step_o_disabled h he, step_ser_disabled h (serEn_of_disabled he)⟩

/-- Settles O24: the registers after the first tick are the reset values, which a second one writes again; and Init writes none
but the tag that they do not hold already. -/
theorem disablingTwiceIsDisablingOnce : Obligations.DisablingTwiceIsDisablingOnce := by
  intro s t he h
  have hp : t.prescaler = s.prescaler := step_prescaler s t h
  have ho : t.o = resetOrchestrator t.prescaler := by rw [hp, step_o_disabled h he]
  have hs : t.ser = resetSerializer t.prescaler := by rw [hp, step_ser_disabled h (serEn_of_disabled he)]
  have hranged : Ranged t := fun _ => by
    rw [ho, hs]
    exact ⟨le_rfl, le_rfl⟩
  have hoff : t.serEn = false := by
    rw [State.serEn, ho]
    exact Bool.and_false _
  have h' := step_eq_next t hranged
  refine ⟨_, h', (step_ser_disabled h' hoff).trans hs.symm, fun he' => (step_o_disabled h' he').trans ho.symm,
    fun he' => ?_⟩
  rw [step_o_enabled h' he', ho]
  exact refreshLatch_of_pending _ rfl

/-- With `cs` low no word stays half read. -/
theorem step_half_of_disabled {s t : State} (h : step s = .next t) (hen : s.serEn = false) : t.obs.half = none := by
  obtain ⟨ws, rfl⟩ := step_next s t h
  have hcs : s.wire.cs = false := hen
  simp [Observed.sample, hcs]

/-- Settles O25: in the tick of the reset the serializer is disabled, and after it the registers have their reset values. -/
theorem portsAndWireAroundAReset : Obligations.PortsAndWireAroundAReset := by
  intro s t he h
  have hoff : s.serEn = false := serEn_of_disabled he
  have hready : s.serReady = false := by rw [State.serReady, hoff, Bool.false_and]
  have ho : t.o = resetOrchestrator s.prescaler := step_o_disabled h he
  have hs : t.ser = resetSerializer s.prescaler := step_ser_disabled h hoff
  have hoff' : t.serEn = false := by
    rw [State.serEn, ho]
    exact Bool.and_false _
  obtain ⟨hbits, hbytes⟩ := step_read_of_disabled h hoff
  refine ⟨hoff, hready, rfl, rfl, rfl, rfl, rfl, rfl, hoff', ?_, ?_, ?_, ?_, ?_, ?_, hbits, hbytes,
    step_half_of_disabled h hoff, step_payloads_of_not_ready h hready⟩
  all_goals simp only [State.outputs, ho, hs, resetOrchestrator, resetSerializer]

/-! ### The wires within a tick -/

/-- Settles O29: a state that offers writes its own byte again, or none. -/
theorem offeredByteIsHeldUntilTransferred : Obligations.OfferedByteIsHeldUntilTransferred := by
  intro s t hinv he hv hx h
  have facts := runInv_facts hinv
  have hready : s.serReady = false := by
    rw [State.xfer, hv, Bool.true_and] at hx
    exact hx
  obtain ⟨-, -, -, ⟨hsend, -, -, -, hupd, -⟩, -⟩ := hinv
  rw [step_table h he]
  change nextOutPayload s = s.o.outPayload ∧ (nextOutValid s = true ∨ _)
  cases htag : s.o.state <;> simp only [htag, hv, Bool.true_eq_false, false_and, and_false] at facts
  case sendReg => simp [nextOutPayload, nextOutValid, htag, hsend htag hv]
  case sendUpdate => simp [nextOutPayload, nextOutValid, htag, hupd htag hv]
  case sendRow => simp [nextOutPayload, nextOutValid, htag, hready, hv]
  all_goals
    refine ⟨nextOutPayload_eq (by simp [htag]), .inr ⟨by simp, fun hz => ?_⟩⟩
    simp [serReady_of_enabled he, facts, hz] at hready

/-- Settles O30: of an enabled serializer's operations only SER.RISE writes the data line. -/
theorem dataChangesOnlyWithARisingEdge : Obligations.DataChangesOnlyWithARisingEdge := by
  intro s t he hs h hne
  have hen : s.serEn = true := (serEn_eq_true_iff s).mpr ⟨he, hs⟩
  change t.ser.dataOut ≠ s.ser.dataOut at hne
  change s.ser.clkPhase = false ∧ t.ser.clkPhase = true ∧ s.ser.count ≠ 0 ∧ t.ser.dataOut = _
  rw [step_ser s t h] at hne ⊢
  rcases nextSer_cases s fun e => (step_ranged s t h e).2 with ⟨e, -⟩ | ⟨-, -, -, e⟩ | ⟨-, -, -, e⟩ | ⟨-, -, -, e⟩ |
    ⟨-, hz, -, hc, e⟩ | ⟨-, -, -, -, e⟩
  case inl => exact absurd hen (Bool.eq_false_iff.mp e)
  case inr.inr.inr.inr.inl =>
    rw [e]
    exact ⟨hc, rfl, hz, topBit_eq_decide _⟩
  all_goals
    rw [e] at hne
    exact absurd rfl hne

/-! ### Pins that no rule reads -/

section
variable (p : Nat) (i : Inputs) (ready : Bool) (tag : StateTag) (o : Orchestrator)

/-- No rule reads `greq_ready` (40_composition.md R95). -/
theorem stateRule_greqReady (r : Bool) :
    stateRule p { i with greqReady := r } ready tag o = stateRule p i ready tag o := by
  cases tag <;> rfl

/-- No rule but WaitForRow's reads the response. -/
theorem stateRule_response (v : Bool) (b : Byte) (h : tag ≠ .waitForRow) :
    stateRule p { i with grespValid := v, grespBitmap := b } ready tag o = stateRule p i ready tag o := by
  cases tag
  case waitForRow => exact absurd rfl h
  all_goals rfl

/-- And that one reads the bitmap only of a valid response. -/
theorem stateRule_bitmap (b : Byte) (h : i.grespValid = false) :
    stateRule p { i with grespBitmap := b } ready tag o = stateRule p i ready tag o := by
  cases tag
  case waitForRow => simp only [stateRule, h, Bool.false_eq_true, if_false]
  all_goals rfl

end

/-- Settles O34: the pins of a tick matter through `en`, `refresh` and the state rule (`step_congr_input`). -/
theorem glyphInputsCountOnlyInWaitForRow : Obligations.GlyphInputsCountOnlyInWaitForRow := by
  intro s i l r v b hs
  have hi : s.input = i := by rw [State.input, hs]
  have htail : s.inputs.tail = l := by rw [hs, List.tail_cons]
  subst hi
  exact ⟨step_congr_input s _ htail rfl rfl fun _ => stateRule_greqReady ..,
    fun htag => step_congr_input s _ htail rfl rfl fun _ => stateRule_response _ _ _ _ _ _ _ htag,
    fun hv => step_congr_input s _ htail rfl rfl fun _ => stateRule_bitmap _ _ _ _ _ _ hv⟩

end Sys2Proof.Machine
end

section
/-! PROOFS, family other: runs. The reset state meets every invariant (O37), a run with `en` held 1 keeps them (one induction), and
what a boot sends follows (O43, O44). -/

namespace Sys2Proof.Machine

/-! ### The reset state -/

section
variable (p : Nat) (l : List Inputs)

theorem runInv_bootWith : RunInv (bootWith p l) := runInv_of_reset rfl rfl

theorem wireFollows_bootWith : WireFollows [] [] (bootWith p l) := by
  have hflight : inFlight (bootWith p l) = false := inFlight_of_idle rfl
  exact ⟨[], rfl, by rw [hflight]; rfl, by rw [hflight]; rfl, Bool.false_ne_true.elim⟩

theorem configInOrder_bootWith : ConfigInOrder [] (bootWith p l) := by
  have hm : (bootWith p l).o.state ∈ configStates := List.mem_cons_self
  rw [ConfigInOrder, if_pos hm]
  exact ⟨rfl, fun _ => ⟨rfl, rfl⟩⟩

theorem decodesItsTrace_bootWith : DecodesItsTrace (bootWith p l) := fun _ => rfl

theorem ticksToRest_bootWith : ticksToRest (bootWith p l) = 169 + 48 * byteTicks p := by
  change 1 + 24 * (2 * byteTicks p + 7) = _
  omega

end

/-- Settles O37: the reset state is the boot of the open parameter with no scheduled input. -/
theorem resetMeetsTheInvariants : Obligations.ResetMeetsTheInvariants :=
  ⟨runInv_bootWith Config.PRESCALER [], wireFollows_bootWith Config.PRESCALER [],
    configInOrder_bootWith Config.PRESCALER [], decodesItsTrace_bootWith Config.PRESCALER [], fun p l =>
      ⟨runInv_bootWith p l, wireFollows_bootWith p l, configInOrder_bootWith p l, decodesItsTrace_bootWith p l, rfl,
        ticksToRest_bootWith p l⟩⟩

/-! ### Runs with `en` held 1 -/

/-- What holds in tick `k` of a run from a boot. -/
structure BootInv (k : Nat) (s : State) : Prop where
  runInv : RunInv s
  wireFollows : WireFollows [] [] s
  configInOrder : ConfigInOrder [] s
  decodesItsTrace : DecodesItsTrace s
  trace_length : s.obs.trace.length = k
  tick_eq : s.tick = k

theorem bootInv_bootWith (p : Nat) (l : List Inputs) : BootInv 0 (bootWith p l) :=
  ⟨runInv_bootWith p l, wireFollows_bootWith p l, configInOrder_bootWith p l, decodesItsTrace_bootWith p l, rfl, rfl⟩

theorem step_tick {s t : State} (h : step s = .next t) : t.tick = s.tick + 1 := by
  obtain ⟨ws, rfl⟩ := step_next s t h
  rfl

theorem bootInv_step {k : Nat} {s t : State} (hinv : BootInv k s) (he : s.input.en = true) (h : step s = .next t) :
    BootInv (k + 1) t where
  runInv := everyStepKeepsTheRunInvariants s t hinv.runInv h
  wireFollows := bytesOnTheWireAreTheBytesTransferred s t [] [] hinv.runInv hinv.wireFollows he h
  configInOrder := configurationBytesAreSentInOrder s t [] hinv.runInv hinv.configInOrder he h
  decodesItsTrace := (bytesReadAreTheTraceDecoded s t hinv.decodesItsTrace h).2.2
  trace_length := by rw [step_trace s t h, List.length_append, hinv.trace_length, List.length_singleton]
  tick_eq := by rw [step_tick h, hinv.tick_eq]

theorem run_succ {s t : State} (h : step s = .next t) (m : Nat) :
    Host.Core.run Sys2Proof.core (m + 1) s = Host.Core.run Sys2Proof.core m t := by
  have h' : Sys2Proof.core.step s = .next t := h
  simp only [Host.Core.run, h']

/-- The induction over a run, once: what every enabled step of a boot keeps holds, with `BootInv`, of the state that any number
of scheduled ticks leads to. -/
theorem run_induction {P : Nat → State → Prop}
    (hP : ∀ k s t, BootInv k s → s.input.en = true → step s = .next t → P k s → P (k + 1) t) (m : Nat) :
    ∀ (k : Nat) (s : State), BootInv k s → P k s → EnableHeld s.inputs → m ≤ s.inputs.length →
      ∃ t, Host.Core.run Sys2Proof.core m s = .next t ∧ BootInv (k + m) t ∧ P (k + m) t := by
  induction m with
  | zero => exact fun k s hinv hk _ _ => ⟨s, rfl, hinv, hk⟩
  | succ m ih =>
    intro k s hinv hk hheld hlen
    have he : s.input.en = true := by
      cases hs : s.inputs with
      | nil => simp [hs] at hlen
      | cons i l =>
        rw [State.input, hs]
        exact hheld i (by rw [hs]; exact List.mem_cons_self)
    obtain ⟨⟨⟨hser, horch⟩, -⟩, -⟩ := id hinv.runInv
    have h := step_eq_next s fun _ => ⟨horch.le, hser⟩
    have hheld' : EnableHeld s.inputs.tail := fun i hi => hheld i (List.mem_of_mem_tail hi)
    obtain ⟨u, hrun, hu⟩ := ih (k + 1) _ (bootInv_step hinv he h) (hP k s _ hinv he h hk) hheld'
      (by rw [List.length_tail]; omega)
    exact ⟨u, (run_succ h m).trans hrun, by rwa [Nat.add_assoc, Nat.add_comm 1 m] at hu⟩

/-! ### What a run has sent -/

/-- The bytes decoded from the wire trace are the first ones of those transferred, and all of them with the serializer idle. -/
theorem wireDecode_prefix_payloads {k : Nat} {s : State} (hinv : BootInv k s) :
    wireDecode s.obs.trace <+: s.obs.payloads ∧ (s.ser.count = 0 → wireDecode s.obs.trace = s.obs.payloads) := by
  obtain ⟨sent, hbytes, hpay, -, -⟩ := hinv.wireFollows
  have hdec : wireDecode s.obs.trace = s.obs.bytes := by
    have := hinv.decodesItsTrace []
    rwa [List.append_nil, wireDecodeFrom, List.append_nil] at this
  rw [hdec, hbytes, hpay, List.nil_append]
  refine ⟨List.prefix_append _ _, fun hz => ?_⟩
  rw [inFlight_of_idle hz, if_neg Bool.false_ne_true, List.append_nil]

/-- The first 48 bytes transferred are the configuration, as many of them as there are. -/
theorem payloads_take_of_configInOrder {s : State} (hord : ConfigInOrder [] s) :
    s.obs.payloads.take 48 = configBytes.take s.obs.payloads.length := by
  have hlen : configBytes.length = 48 := rfl
  by_cases hm : s.o.state ∈ configStates
  · rw [ConfigInOrder, if_pos hm, List.nil_append] at hord
    rw [hord.1, List.take_take, List.length_take, hlen, Nat.min_comm]
  · rw [ConfigInOrder, if_neg hm, List.nil_append] at hord
    obtain ⟨rest, hrest⟩ := hord
    rw [← hrest, List.take_left' hlen, List.length_append, hlen, List.take_of_length_le]
    omega

/-- Settles O44: each clause is read off `BootInv` at the end of the run. -/
theorem everyRunBeginsWithTheConfiguration : Obligations.EveryRunBeginsWithTheConfiguration := by
  intro p l hheld
  obtain ⟨t, hrun, hinv, -⟩ := run_induction (P := fun _ _ => True) (fun _ _ _ _ _ _ _ => trivial) l.length 0
    (bootWith p l) (bootInv_bootWith p l) trivial hheld le_rfl
  rw [Nat.zero_add] at hinv
  exact ⟨t, hrun, hinv.trace_length, payloads_take_of_configInOrder hinv.configInOrder, wireDecode_prefix_payloads hinv⟩

/-- In tick `k` of a boot, up to tick `n`: the ticks to rest make up the difference, and the state is one of the configuration,
or the Tick that follows it with the 48 bytes transferred. -/
def BootProgress (n k : Nat) (s : State) : Prop :=
  k ≤ n → ticksToRest s + k = n ∧
    (s.o.state ∈ configStates ∨ (s.o.state = .tick ∧ s.obs.payloads = configBytes ∧ s.ser.count = 0))

theorem bootProgress_step (n k : Nat) (s t : State) (hinv : BootInv k s) (he : s.input.en = true)
    (h : step s = .next t) (hk : BootProgress n k s) : BootProgress n (k + 1) t := by
  intro hle
  obtain ⟨hrest, hstate⟩ := hk (Nat.le_of_succ_le hle)
  obtain ⟨hdown, hzero⟩ := everyTickIsOneTickNearerToRest s t hinv.runInv he h
  have hmove : ¬ (s.o.state = .tick ∨ s.o.state = .waitForRow) := fun e => by
    have := hzero.mpr e
    omega
  obtain ⟨htick, hwait⟩ := not_or.mp hmove
  have hm : s.o.state ∈ configStates := hstate.resolve_right fun e => htick e.1
  refine ⟨by have := hdown htick hwait; omega, ?_⟩
  by_cases hend : s.o.state = .configNext ∧ s.o.digitIndex = 0#2 ∧ s.o.step = 5
  · have hord := hinv.configInOrder
    rw [ConfigInOrder, if_pos hm] at hord
    have facts := runInv_facts hinv.runInv
    simp only [hend.1] at facts
    obtain ⟨htick', hpay⟩ := config_end hinv.runInv h he hend.1 hend.2 hord.1
    exact .inr ⟨htick', hpay, step_count_of_idle h facts.2.2 (xfer_of_no_offer facts.2.1)⟩
  · have hst : t.o.state = successor s := step_state h he
    exact .inl (hst ▸ successor_configuration hm hend)

/-- Settles O43: `BootProgress` with the tick number as its `n` holds in tick 0, and in tick `n` there is nothing to go. -/
theorem bootSendsTheConfigurationOnTime : Obligations.BootSendsTheConfigurationOnTime := by
  intro p l hheld hlen
  have hboot : BootProgress l.length 0 (bootWith p l) := fun _ =>
    ⟨(ticksToRest_bootWith p l).trans hlen.symm, .inl List.mem_cons_self⟩
  have run (m : Nat) := run_induction (bootProgress_step l.length) m 0 (bootWith p l) (bootInv_bootWith p l) hboot hheld
  simp only [Nat.zero_add] at run
  constructor
  · obtain ⟨t, hrun, hinv, hprog⟩ := run l.length le_rfl
    obtain ⟨hrest, hstate⟩ := hprog le_rfl
    have hzero : ticksToRest t = 0 := by omega
    have hno : t.o.state ∉ configStates := by
      rcases (ticksToRest_eq_zero_iff t).mp hzero with e | e <;> simp [e]
    obtain ⟨htick, hpay, hz⟩ := hstate.resolve_left hno
    exact ⟨t, hrun, htick, hinv.tick_eq.trans hlen, hpay, ((wireDecode_prefix_payloads hinv).2 hz).trans hpay⟩
  · intro k hk
    obtain ⟨u, hrun, hinv, hprog⟩ := run k hk.le
    obtain ⟨hrest, -⟩ := hprog hk.le
    refine ⟨u, hrun, hinv.tick_eq, fun htick => ?_⟩
    have hzero := (ticksToRest_eq_zero_iff u).mpr (.inl htick)
    omega

end Sys2Proof.Machine
end
